-- ==== Sys2Proof/Config.lean ====
section
/-! DEFINITION. The part's fixed quantities (spec/00_scope.md Table 3) and the FREE VALUES of the model:
orders and one value that the manual leaves open. A free value has no body: nothing can be proved of it. -/

namespace Sys2Proof.Config

/-- Echo budget: taps shared by all channels (R17). -/
def echoBudget : Nat := 6144
/-- Equalizer budget: taps shared by all EQ contexts (R91). -/
def eqBudget : Nat := 768
/-- Samples in one History Pool page (R18). -/
def pageSize : Nat := 256
/-- The reach of the far filter in samples, 40 pages (R6). -/
def maxReach : Nat := 10240
/-- Entries of an rx queue (R81). -/
def rxDepth : Nat := 8
/-- Notices of a notice queue (R147). -/
def noticeDepth : Nat := 16
/-- Command intake entries and EQ job slots of a link (R136, R95). -/
def intakeDepth : Nat := 4
/-- Crystal periods from one highway frame sync to the next (section 2-1). -/
def framePeriod : Nat := 2048
/-- Half-width of the sync window in crystal periods (section 2-1). -/
def syncWindow : Nat := 8
/-- The silence setting, in ms, at power-on (R133). -/
def silenceDefault : Nat := 50
/-- The largest activity floor (R63). -/
def floorMax : Nat := 1073741823

/-- FREE VALUE. R26 gives the frame operations of one frame arrival no order among themselves, yet they share
the notice queues, the response queues and the free list. `frameOrderKey n c` is the unknown place of channel
`c` in the frame arrival numbered `n` by `State.freeCount`: channels run in rising key. See assumption 4. -/
opaque frameOrderKey : Nat → Nat → Nat

/-- FREE VALUE. When one action makes the results of several queued jobs of one link (CLOSE, EQ_CLOSE, ACCEPT),
the manual does not say in which order they become ready. `resultOrderKey n k` is the unknown place of job slot
`k` in the action numbered `n`. See assumption 5. -/
opaque resultOrderKey : Nat → Nat → Nat

/-- FREE VALUE. R39 takes the current block away at an underrun and does not say what the read position then reads
(state word 17). `readPosAfterUnderrun n` is that unknown value, within the range R32 gives. See assumption 6. -/
opaque readPosAfterUnderrun : Nat → Fin 17

end Sys2Proof.Config
end

