-- ==== Sys2Proof/Word.lean ====
section
/-! DEFINITION. The word types of the W4810: link words, samples, taps, and the numbers that name links,
channels, timeslots and pages (spec/00_scope.md Table 3, section 0-7). -/

namespace Sys2Proof

/-- A 32-bit word of a pump link (R128). -/
abbrev Word := BitVec 32
/-- A 16-bit two's-complement line sample (R44, Table 16). -/
abbrev Sample := BitVec 16
/-- A 24-bit two's-complement filter coefficient, read as value / 2^22 (R44, R91). -/
abbrev Tap := BitVec 24
/-- A 16-bit wrapping sequence number of a TX_BLOCK or RX_BLOCK (section 0-7). -/
abbrev Seq := BitVec 16
/-- The 12-bit tag of a message header (Table 46). -/
abbrev Tag := BitVec 12
/-- The 6-bit channel field of a message header: 0 to 47 a channel, 63 the device or the sending link. -/
abbrev ChanField := BitVec 6
/-- A pump link, 0 to 3. -/
abbrev Link := Fin 4
/-- A channel, 0 to 47. -/
abbrev Chan := Fin 48
/-- A highway timeslot, 0 to 63. -/
abbrev Slot := Fin 64
/-- A History Pool page, 0 to 127. -/
abbrev Page := Fin 128
/-- The 16 samples of one transmit block (Table 3). -/
abbrev Block := Vector Sample 16
/-- A complex sample, (real, imaginary) (R91). -/
abbrev Cplx := Sample × Sample

end Sys2Proof
end

