-- ==== Sys2Proof/Machine/Fields.lean ====
section
/-! DEFINITION. Bit fields of link words, sample packing (R162), and the exact-integer helpers of section 0-7:
saturate, clamp, rounding of a scaled product. -/

namespace Sys2Proof.Machine

/-- The unsigned field of `len` bits at bit `lo` of a word (section 11: "bits a–b"). -/
def fieldAt (w : Word) (lo len : Nat) : Nat := w.toNat / 2 ^ lo % 2 ^ len

/-- The signed 16-bit field at bit `lo` of a word. -/
def sampleAt (w : Word) (lo : Nat) : Sample := BitVec.ofNat 16 (w.toNat / 2 ^ lo)

/-- The word whose field of `len` bits at bit `lo` holds `v`, every other bit 0 (R161). -/
def place (v lo len : Nat) : Word := BitVec.ofNat 32 (v % 2 ^ len * 2 ^ lo)

/-- One bit at position `lo`. -/
def placeBit (b : Bool) (lo : Nat) : Word := place b.toNat lo 1

/-- Two samples in one word, the earlier (or the real part) in bits 0–15 (R162). -/
def packPair (first second : Sample) : Word := second ++ first

/-- The two samples of a word, bits 0–15 first (R162). -/
def unpackPair (w : Word) : Sample × Sample := (sampleAt w 0, sampleAt w 16)

/-- The samples of a list of packed words, in order (R162). -/
def unpackSamples : List Word → List Sample
  | [] => []
  | w :: ws => sampleAt w 0 :: sampleAt w 16 :: unpackSamples ws

/-- Samples packed two to a word (R162); an odd last sample stands alone with zeros above it. -/
def packSamples : List Sample → List Word
  | [] => []
  | [a] => [packPair a 0]
  | a :: b :: rest => packPair a b :: packSamples rest

/-- The block of 16 samples that the eight packed words of a TX_BLOCK hold: word ⌊i/2⌋ holds sample i (R162). -/
def blockOfWords (ws : Vector Word 8) : Block :=
  Vector.ofFn fun i => sampleAt (ws[i.val / 2]'(by omega)) (16 * (i.val % 2))

/-- Saturate (or clamp) an exact integer to a range (section 0-7). -/
def saturate (lo hi x : Int) : Int := if x < lo then lo else if hi < x then hi else x

/-- The 16-bit sample range of R49. -/
def saturateSample (x : Int) : Int := saturate (-32768) 32767 x

/-- The tap range of R44. -/
def clampTap (x : Int) : Int := saturate (-8388608) 8388607 x

/-- Round `x / 2^m` half toward plus infinity: floor((x + 2^(m-1)) / 2^m) (section 0-7, R48, R50). -/
def roundShift (x : Int) (m : Nat) : Int := (x + 2 ^ (m - 1)) / 2 ^ m

/-- Clamp a numeric parameter to a range (section 0-7, R161). -/
def clampNat (lo hi n : Nat) : Nat := min hi (max lo n)

/-- Round a tap count up to the next multiple of `step`, at most `cap` (R6 steps 1 and 2). -/
def roundUpTo (step cap n : Nat) : Nat := min cap ((n + (step - 1)) / step * step)

/-- A 16-bit counter that stops at 65,535 (R151). -/
def stick16 (n : BitVec 16) : BitVec 16 := if n = 65535 then n else n + 1

/-- A 32-bit counter that wraps (R151). -/
def wrap32 (n : BitVec 32) : BitVec 32 := n + 1

/-- Stable insertion of `x` by rising key. -/
def insertByKey {α : Type} (key : α → Nat) (x : α) : List α → List α
  | [] => [x]
  | y :: ys => if key x ≤ key y then x :: y :: ys else y :: insertByKey key x ys

/-- A list in rising key. A list of one member is not looked at, so its key is never needed. -/
def sortByKey {α : Type} (key : α → Nat) : List α → List α
  | [] => []
  | x :: xs => insertByKey key x (sortByKey key xs)

end Sys2Proof.Machine
end

