-- ==== Sys2Proof/Syntax.lean ====
section
/-! DEFINITION. The commands of the block: one constructor of `Instr` per row of spec/opcode_table.json.

The first 26 rows that a pump sends are COMMANDS (Table 36), then two DATA MESSAGES (TX_BLOCK, EQ_IN); each carries
the link it arrives on and the fields of its header and payload (Tables 46 and 48) as raw words, so that the part
itself reads every field. The other rows are EVENTS: highway syncs, timer expiries, completions of operations, pins. -/

namespace Sys2Proof

/-- The kinds of command a pump may send (Table 36). -/
inductive CmdKind where
  | openChannel | closeChannel | setNear | setFar | setAdapt | clearTaps | setPlayout | setLine | setNotices
  | setShadow | handover | accept | decline | adopt | eqOpen | eqClose | eqSet | peek | poke | status | counters
  | deviceStatus | watch | nop | linkConfig | resetDevice
  deriving DecidableEq, Repr

/-- The payload of an OPEN: 1, 2 or 3 words (Table 47, Table 48). -/
inductive OpenPayload where
  | slot (w1 : Word)
  | sizes (w1 w2 : Word)
  | line (w1 w2 w3 : Word)
  deriving DecidableEq, Repr

/-- The payload of a HANDOVER: the target, and optionally the window. -/
inductive HandoverPayload where
  | target (w1 : Word)
  | window (w1 w2 : Word)
  deriving DecidableEq, Repr

/-- The payload of an EQ_OPEN: the short form or the long form (R92). -/
inductive EqOpenPayload where
  | short (w1 : Word)
  | long (w1 w2 w3 : Word)
  deriving DecidableEq, Repr

/-- The words of an OPEN's payload, in order. -/
def OpenPayload.words : OpenPayload → List Word
  | .slot a => [a]
  | .sizes a b => [a, b]
  | .line a b c => [a, b, c]

/-- The words of a HANDOVER's payload, in order. -/
def HandoverPayload.words : HandoverPayload → List Word
  | .target a => [a]
  | .window a b => [a, b]

/-- The words of an EQ_OPEN's payload, in order. -/
def EqOpenPayload.words : EqOpenPayload → List Word
  | .short a => [a]
  | .long a b c => [a, b, c]

/-- The commands. `l` is the link, `ch` the header's channel field, `tag` its tag; `w…` are payload words. -/
inductive Instr where
  -- commands of the pumps
  | openChannel (l : Link) (ch : ChanField) (tag : Tag) (p : OpenPayload)
  | contextClearComplete (c : Chan)
  | closeChannel (l : Link) (ch : ChanField) (tag : Tag)
  | setNear (l : Link) (ch : ChanField) (tag : Tag) (w1 : Word)
  | setFar (l : Link) (ch : ChanField) (tag : Tag) (w1 : Word)
  | setAdapt (l : Link) (ch : ChanField) (tag : Tag) (w1 w2 w3 w4 : Word)
  | clearTaps (l : Link) (ch : ChanField) (tag : Tag) (w1 : Word)
  | setPlayout (l : Link) (ch : ChanField) (tag : Tag) (w1 : Word)
  | setLine (l : Link) (ch : ChanField) (tag : Tag) (w1 : Word)
  | setNotices (l : Link) (ch : ChanField) (tag : Tag) (w1 : Word)
  | setShadow (l : Link) (ch : ChanField) (tag : Tag) (w1 : Word)
  | handover (l : Link) (ch : ChanField) (tag : Tag) (p : HandoverPayload)
  | accept (l : Link) (ch : ChanField) (tag : Tag)
  | decline (l : Link) (ch : ChanField) (tag : Tag)
  | adopt (l : Link) (ch : ChanField) (tag : Tag)
  | eqOpen (l : Link) (ch : ChanField) (tag : Tag) (p : EqOpenPayload)
  | eqClose (l : Link) (ch : ChanField) (tag : Tag)
  | eqSet (l : Link) (ch : ChanField) (tag : Tag) (w1 : Word)
  | peek (l : Link) (ch : ChanField) (tag : Tag) (w1 : Word)
  | poke (l : Link) (ch : ChanField) (tag : Tag) (w1 w2 : Word)
  | status (l : Link) (ch : ChanField) (tag : Tag) (w1 : Option Word)
  | counters (l : Link) (ch : ChanField) (tag : Tag) (w1 : Option Word)
  | deviceStatus (l : Link) (ch : ChanField) (tag : Tag)
  | watch (l : Link) (ch : ChanField) (tag : Tag) (w1 : Word)
  | nop (l : Link) (ch : ChanField) (tag : Tag) (payload : List Word)
  | linkConfig (l : Link) (ch : ChanField) (tag : Tag) (w1 : Word)
  | resetDevice (l : Link) (ch : ChanField) (tag : Tag)
  -- data messages of the pumps
  | txBlock (l : Link) (ch : ChanField) (w1 : Word) (samples : Vector Word 8)
  | eqIn (l : Link) (ch : ChanField) (tag : Tag) (payload : List Word)
  -- events of the Equalizer Engine
  | jobStart
  | eqInputPush
  | jobComplete
  -- events of the links
  | malformedHeader (l : Link)
  | resync (l : Link)
  | silenceTimerExpiry (l : Link)
  | handoverExpiry (c : Chan)
  -- events of the highway: `t` is the sync's arrival in crystal periods, `inbound` the frame it closes
  | frameSync (t : Nat) (inbound : Vector Sample 64)
  | syncWindowClose
  | frameArrival (t : Nat) (inbound : Vector Sample 64)
  -- events of the link transmitters
  | transmitStart (l : Link)
  | messageCompletion (l : Link)
  -- resets
  | deviceClearComplete
  | powerOn
  | resetPinAssert
  | resetPinRelease
  | powerOnClearComplete
  | handoverTimerTick (c : Chan)
  | resyncPairSent (l : Link)
  deriving DecidableEq, Repr

end Sys2Proof
end

