-- ==== Sys2Proof/Machine/State.lean ====
section
/-! DEFINITION. The state of the W4810 as plain data: everything spec/ gives the part (Table 1, Table 6, R23, R32,
R45, R79, R81, R86, R91, R95, R98, R107, R132 to R139, R147, R158), the queue of waiting commands, and the model's own
counter of free values. -/

namespace Sys2Proof.Machine

/-- Why a step could stop with a fault. EMPTY: the manual describes no stop of the part, and no meaning of this
model faults; every command and event of the table has an effect or none, and the part goes on. -/
inductive Fault where
  deriving DecidableEq, Repr

/-- Why a step could be refused. -/
inductive Refusal where
  /-- Raised only by an arm of `exec` whose command has no meaning yet. Safe: nothing is claimed of it. No arm of
  this model raises it. -/
  | notModelled (mnemonic : String)
  deriving DecidableEq, Repr

/-- The lifecycle state of a channel (R3, Figure 2). -/
inductive Life where
  | free | opening | active | handoverPending | orphaned
  deriving DecidableEq, Repr

/-- The adaptation setting of an echo filter (R60). -/
inductive Gear where
  | off | train | track | hold
  deriving DecidableEq, Repr

/-- The mode of an EQ context (R94). -/
inductive EqMode where
  | train | track | hold
  deriving DecidableEq, Repr

/-- The loopback mode of a channel (R29). -/
inductive Loopback where
  | noLoop | localLoop | lineLoop
  deriving DecidableEq, Repr

/-- The fill policy of a channel's playout (R38). -/
inductive Fill where
  | zeros | repeatLast
  deriving DecidableEq, Repr

/-- The playout state (R36, R37). -/
inductive PlayState where
  | priming | playing
  deriving DecidableEq, Repr

/-- One echo filter: its taps, gears and exponents (Table 6). -/
structure Filter where
  taps : List Tap
  gear : Gear
  resume : Gear
  trainM : Nat
  trackM : Nat
  leak : Nat
  deriving DecidableEq, Repr

/-- An offer record: the target and the window remaining, in units of 10 ms (R118, R119). -/
structure Offer where
  target : Link
  window : Nat
  deriving DecidableEq, Repr

/-- A pending retune (R73). `reserved` is k_p of R72: the pages at the tail of the page list kept for it. -/
structure Retune where
  nf : Nat
  d : Nat
  requester : Option Link
  tag : Tag
  reserved : Nat
  deriving DecidableEq, Repr

/-- The Playout Unit's part of a channel (R32). Position o of `window` holds the block of sequence E + o. -/
structure Playout where
  window : Vector (Option Block) 16
  e : Seq
  state : PlayState
  current : Option Block
  readPos : Nat
  lastPlayed : Option Block
  lastWasFill : Bool
  startDepth : Nat
  lowWater : Nat
  fill : Fill
  deriving DecidableEq, Repr

/-- An rx queue entry: a closed rx block and its pending set, the links still due to start sending it (R81). -/
structure RxEntry where
  seq : Seq
  samples : List Sample
  due : List Link
  deriving DecidableEq, Repr

/-- An EQ context (R91). `lv` is L, the levels per axis; `a` the half-spacing A; `peps` P_eps. -/
structure EqCtx where
  ne : Nat
  taps : List (Tap × Tap)
  line : List Cplx
  phase : Bool
  lv : Nat
  a : Nat
  mode : EqMode
  resume : EqMode
  trainM : Nat
  trackM : Nat
  peps : BitVec 32
  deriving DecidableEq, Repr

/-- The twelve counters of a channel (Table 43). -/
structure Counters where
  blocksPlayed : BitVec 32
  clippedSamples : BitVec 32
  eqJobsDone : BitVec 32
  blocksMissing : BitVec 16
  blocksLate : BitVec 16
  blocksDuplicate : BitVec 16
  jumps : BitVec 16
  underruns : BitVec 16
  rxBlocksDropped : BitVec 16
  clampSamples : BitVec 16
  divergences : BitVec 16
  eqJobsSkipped : BitVec 16
  deriving DecidableEq, Repr

/-- A channel record with every unit's part of the channel's context (Table 6). The block sample index of R30 is
the length of `asm` (R79) and is not kept twice. `pages` includes the pages a pending retune has reserved (R73). -/
structure Channel where
  state : Life
  holder : Option Link
  copy : Option Link
  saved : Option Link
  offer : Option Offer
  slot : Option Slot
  loopback : Loopback
  idle : Sample
  nn : Nat
  nf : Nat
  d : Nat
  retune : Option Retune
  charge : Nat
  pages : List Page
  writePos : Nat
  filled : Nat
  near : Filter
  far : Filter
  autoNear : Bool
  autoFar : Bool
  c : Nat
  convBlocks : Nat
  divBlocks : Nat
  floor : Nat
  py : BitVec 32
  pe : BitVec 32
  convRun : Nat
  divRun : Nat
  play : Playout
  asm : List Sample
  nextRx : Seq
  rxq : List RxEntry
  eq : Option EqCtx
  mask : BitVec 6
  flags : BitVec 9
  cnt : Counters
  deriving DecidableEq, Repr

/-- A command message: its header fields and its payload words (section 8-2). -/
structure CmdMsg where
  kind : CmdKind
  chan : ChanField
  tag : Tag
  payload : List Word
  deriving DecidableEq, Repr

/-- The state of an intake entry (R136). -/
inductive EntryState where
  | waiting | inProgress | answered
  deriving DecidableEq, Repr

/-- An intake entry: which of the 4 places it takes, its command message and its state (R136). -/
structure Entry where
  place : Fin 4
  msg : CmdMsg
  state : EntryState
  deriving DecidableEq, Repr

/-- The response codes (Table 37). -/
inductive Code where
  | ok | superseded | closed | badChannel | badValue | notFree | slotTaken | noBudget | noHistory | noEqSpace
  | notHolder | notOrphaned | notOffered | busy | inUse | readOnly | resetting | linkDown
  deriving DecidableEq, Repr

/-- A response (R138). `body` is the payload after its first word (Table 49); `entry` the intake entry that its
completion releases, or none once that entry has been emptied. -/
structure Response where
  kind : CmdKind
  chan : ChanField
  tag : Tag
  code : Code
  body : List Word
  entry : Option (Fin 4)
  deriving DecidableEq, Repr

/-- The reasons of OFFER_WITHDRAWN and HANDOVER_FAILED (Table 50). -/
inductive Reason where
  | closed | expired | adopted | declined | targetDown
  deriving DecidableEq, Repr

/-- The notice kinds with what each carries (Table 40). -/
inductive NoticeBody where
  | converged (near far : Bool)
  | diverged (near far : Bool)
  | underrun (e : Seq)
  | playoutLow (depth lowWater : Nat)
  | playoutRecovered (depth lowWater : Nat)
  | rxOverrun (seq : Seq)
  | offer (holder : Option Link) (window : Nat) (e nextRx : Seq)
  | offerWithdrawn (reason : Reason)
  | handoverDone (newHolder : Link)
  | handoverFailed (target : Link) (reason : Reason)
  | orphaned (former target : Option Link) (e nextRx : Seq)
  | adopted (newHolder : Link) (gears : Word)
  | highwayLocked
  | highwayLost
  | resetDone
  | eqSkipped (tag : Tag)
  | commandDropped (kind : CmdKind) (chan : ChanField) (tag : Tag)
  | watchEnded
  | noticesLost (count : BitVec 16)
  deriving DecidableEq, Repr

/-- A notice: the header's channel field and what it carries. -/
structure Notice where
  chan : ChanField
  body : NoticeBody
  deriving DecidableEq, Repr

/-- The status of an EQ_OUT (R106). -/
inductive EqStatus where
  | ok | noEq | notHolder | closed
  deriving DecidableEq, Repr

/-- One equalizer output: z and the two decision indexes (R106). -/
structure EqOutput where
  z : Cplx
  reIndex : Nat
  imIndex : Nat
  deriving DecidableEq, Repr

/-- The result of a job (R106). -/
structure EqResult where
  status : EqStatus
  outputs : List EqOutput
  peps : BitVec 32
  deriving DecidableEq, Repr

/-- The state of an occupied job slot (Table 26). -/
inductive JobState where
  | queued
  | running
  | ready (r : EqResult)
  | sending (r : EqResult)
  deriving DecidableEq, Repr

/-- A job in a job slot (R95): which of the 4 slots it takes, its EQ_IN and its state. -/
structure Job where
  place : Fin 4
  tag : Tag
  chan : ChanField
  inputs : List Cplx
  refs : List (Nat × Nat)
  state : JobState
  deriving DecidableEq, Repr

/-- The job the engine is running (R98, R99): its link and slot (none once the slot was emptied, R109), its channel,
the inputs and references still to use, the outputs made, and whether CLOSE has marked it (R108). -/
structure RunJob where
  link : Link
  place : Option (Fin 4)
  chan : Chan
  inputs : List Cplx
  refs : List (Nat × Nat)
  outputs : List EqOutput
  closed : Bool
  deriving DecidableEq, Repr

/-- An EQ command held behind the running job (R107). -/
structure Held where
  link : Link
  place : Fin 4
  msg : CmdMsg
  deriving DecidableEq, Repr

/-- A watch record (R158). -/
structure Watch where
  chan : Chan
  index : Nat
  interval : Nat
  countdown : Nat
  deriving DecidableEq, Repr

/-- A WATCH_DATA (R159). -/
structure WatchData where
  chan : Chan
  index : Nat
  rxSeq : Seq
  word : Word
  py : BitVec 32
  pe : BitVec 32
  gears : Word
  deriving DecidableEq, Repr

/-- A message a link transmitter sends (Table 47). An EQ_OUT's `entry` is the job slot it frees at its completion. -/
inductive OutMsg where
  | response (r : Response)
  | notice (n : Notice)
  | eqOut (tag : Tag) (chan : ChanField) (r : EqResult) (entry : Option (Fin 4))
  | rxBlock (chan : Chan) (seq : Seq) (samples : List Sample)
  | watchData (d : WatchData)
  deriving DecidableEq, Repr

/-- The state of a link transmitter (R86), with the RESYNC pair it sends on becoming UP (R128). -/
inductive Tx where
  | idle
  | resyncPair
  | sending (m : OutMsg)
  deriving DecidableEq, Repr

/-- The state of a link (R132). -/
inductive LinkState where
  | down | up | outOfStep
  deriving DecidableEq, Repr

/-- Where a link's inbound stream stands (R129, R131). `unaligned n` is a stream without word alignment, of a link that
is DOWN or OUT_OF_STEP, on which the last `n` bits were 1; `header` is a header position; `waiting` follows one all-ones
word at a header position; `extended` follows a RESYNC pair; `payload h left got` is inside the message of header `h`,
`left` payload words still to come after those of `got`. -/
inductive Framing where
  | unaligned (ones : Nat)
  | header
  | waiting
  | extended
  | payload (h : Word) (left : Nat) (got : List Word)
  deriving DecidableEq, Repr

/-- A link port (chapter 8). `framing` is the framing state of its inbound stream, `part` the bits that have arrived of
the word it is reading, oldest first (R128, assumption 22). `ready` lists the READY job slots, oldest result first (R87).
`timer` says whether the silence timer runs; the time it has run is timing and is left out (assumption 7). -/
structure LinkPort where
  state : LinkState
  framing : Framing
  part : List Bool
  malformedRun : Nat
  setting : Nat
  timer : Bool
  intake : List Entry
  responses : List Response
  notices : List Notice
  lost : BitVec 16
  tx : Tx
  lastServed : Chan
  jobs : List Job
  ready : List (Fin 4)
  watch : Option Watch
  watchData : Option WatchData
  malformedMessages : BitVec 16
  commandsDropped : BitVec 16
  foreignBlocks : BitVec 16
  noticesLost : BitVec 16
  deriving DecidableEq, Repr

/-- The clear in progress. The reset-in-progress mark of R139 is set exactly while it is not `none`. -/
inductive Clear where
  | none | device | powerOn
  deriving DecidableEq, Repr

/-- The History Pool's storage (R18) as a list of (address, sample), the address of sample i of page p being
256 p + i: addresses strictly rising, and no sample listed that is 0. An unlisted address reads 0, the value R18
gives every sample after power-on and after each reset. The manual's unit of this storage is the 16-bit sample. -/
abbrev Memory := List (Nat × Sample)

/-- The state of the part, and the queue of commands waiting to be taken. -/
structure State where
  channels : Vector Channel 48
  slotMap : Vector (Option Chan) 64
  echoUsed : Nat
  freeList : List Page
  pool : Memory
  eqUsed : Nat
  engine : Option RunJob
  eqLast : Link
  held : List Held
  links : Vector LinkPort 4
  locked : Bool
  goodRun : Nat
  missedRun : Nat
  reference : Option Nat
  outbound : Vector (Option Sample) 64
  pin : Bool
  clear : Clear
  freeCount : Nat
  pending : List Instr
  deriving DecidableEq, Repr

/-- An echo filter of a FREE channel (Table 6). -/
def Filter.free : Filter :=
  { taps := [], gear := .off, resume := .off, trainM := 14, trackM := 18, leak := 0 }

/-- The playout of a FREE channel (Table 6); the same values start a call (Table 9). -/
def Playout.free : Playout :=
  { window := Vector.replicate 16 none, e := 0, state := .priming, current := none, readPos := 0, lastPlayed := none,
    lastWasFill := false, startDepth := 3, lowWater := 1, fill := .zeros }

/-- All twelve counters 0. -/
def Counters.zero : Counters :=
  { blocksPlayed := 0, clippedSamples := 0, eqJobsDone := 0, blocksMissing := 0, blocksLate := 0, blocksDuplicate := 0,
    jumps := 0, underruns := 0, rxBlocksDropped := 0, clampSamples := 0, divergences := 0, eqJobsSkipped := 0 }

/-- The default notice mask: CONVERGED, DIVERGED, UNDERRUN and RX_OVERRUN (R145). -/
def defaultMask : BitVec 6 := 0b100111#6

/-- The record of a FREE channel (Table 6). -/
def Channel.free : Channel :=
  { state := .free, holder := none, copy := none, saved := none, offer := none, slot := none, loopback := .noLoop,
    idle := 0, nn := 0, nf := 0, d := 0, retune := none, charge := 0, pages := [], writePos := 0, filled := 0,
    near := Filter.free, far := Filter.free, autoNear := true, autoFar := true, c := 6, convBlocks := 32,
    divBlocks := 8, floor := 4096, py := 0, pe := 0, convRun := 0, divRun := 0, play := Playout.free, asm := [],
    nextRx := 0, rxq := [], eq := none, mask := defaultMask, flags := 0, cnt := Counters.zero }

/-- A link port at power-on and at the reset pin (Table 38). -/
def LinkPort.powerOn : LinkPort :=
  { state := .down, framing := .unaligned 0, part := [], malformedRun := 0, setting := 50, timer := false,
    intake := [], responses := [], notices := [], lost := 0, tx := .idle, lastServed := 47, jobs := [], ready := [],
    watch := none, watchData := none, malformedMessages := 0, commandsDropped := 0, foreignBlocks := 0, noticesLost := 0 }

/-- The machine right after reset: every value of power-on (R18, R22, R23, R59, R78, R86, R98, R110, R127, Table 38),
with the power-on clear completed, no link UP yet, and nothing waiting (assumption 1). -/
def State.reset : State :=
  { channels := Vector.replicate 48 Channel.free, slotMap := Vector.replicate 64 none, echoUsed := 0,
    freeList := List.finRange 128, pool := [], eqUsed := 0, engine := none, eqLast := 3, held := [],
    links := Vector.replicate 4 LinkPort.powerOn, locked := false, goodRun := 0, missedRun := 0, reference := none,
    outbound := Vector.replicate 64 none, pin := false, clear := .none, freeCount := 0, pending := [] }

end Sys2Proof.Machine
end

