-- ==== Sys2Proof/Machine/Memory.lean ====
section
/-! DEFINITION. The History Pool's storage: the named operations over `Memory`, and its canonical form (R18, R45, R46). -/

namespace Sys2Proof.Machine

/-- The sample at an address; an unlisted address reads 0 (R18: after power-on and each reset every sample is 0). -/
def Memory.read : Memory → Nat → Sample
  | [], _ => 0
  | (b, v) :: m, a => if a = b then v else if a < b then 0 else Memory.read m a

/-- The storage with the sample at an address replaced. Writing 0 unlists the address. -/
def Memory.write : Memory → Nat → Sample → Memory
  | [], a, v => if v = 0 then [] else [(a, v)]
  | (b, w) :: m, a, v =>
    if a < b then (if v = 0 then (b, w) :: m else (a, v) :: (b, w) :: m)
    else if a = b then (if v = 0 then m else (a, v) :: m)
    else (b, w) :: Memory.write m a v

/-- The storage with every sample of a page 0 (R9, R20). -/
def Memory.zeroPage (m : Memory) (p : Page) : Memory :=
  m.filter fun cell => decide (¬ cell.1 / Config.pageSize = p.val)

/-- The canonical form: addresses strictly rising, and no listed sample that is 0. -/
def Memory.wf : Memory → Bool
  | [] => true
  | [(_, v)] => decide (v ≠ 0)
  | (a, v) :: (b, w) :: m => decide (a < b) && decide (v ≠ 0) && Memory.wf ((b, w) :: m)

/-- The address of ring position `p` on a page list: entry ⌊p/256⌋, sample p mod 256 (section 3-2). -/
def ringAddr (pages : List Page) (p : Nat) : Option Nat :=
  (pages[p / Config.pageSize]?).map fun pg => pg.val * Config.pageSize + p % Config.pageSize

/-- The sample at a ring position; a position with no page reads 0. -/
def ringRead (m : Memory) (pages : List Page) (p : Nat) : Sample :=
  match ringAddr pages p with
  | some a => m.read a
  | none => 0

/-- The storage after a write at a ring position; a position with no page is not written. -/
def ringWrite (m : Memory) (pages : List Page) (p : Nat) (v : Sample) : Memory :=
  match ringAddr pages p with
  | some a => m.write a v
  | none => m

/-- The storage after the samples of a list are written at ring positions `p`, `p + 1`, … -/
def ringWriteFrom (m : Memory) (pages : List Page) : Nat → List Sample → Memory
  | _, [] => m
  | p, v :: vs => ringWriteFrom (ringWrite m pages p v) pages (p + 1) vs

/-- P_a of R71: the pages that serve the applied sizes, the page list less the pages a pending retune reserved. -/
def Channel.servingPages (ch : Channel) : Nat :=
  ch.pages.length - (match ch.retune with | some r => r.reserved | none => 0)

/-- R of section 3-2: the length of the channel's history ring. -/
def Channel.ringLength (ch : Channel) : Nat := Config.pageSize * ch.servingPages

/-- The history sample of age `j`, the newest having age 0 (R46). Ages from the filled length on read 0. -/
def Channel.sampleOfAge (ch : Channel) (m : Memory) (j : Nat) : Sample :=
  if j < ch.filled then ringRead m ch.pages ((ch.writePos + ch.ringLength - 1 - j) % ch.ringLength) else 0

end Sys2Proof.Machine
end

