-- ==== Sys2Proof/Machine/Operands.lean ====
section
/-! DEFINITION. Reading the operands of commands: channel and link fields, enumerations, sets, and the effective
values of sizes and settings (R2, R6, R15, R63, R71, R92, R161, sections 11-2 and 11-3). -/

namespace Sys2Proof.Machine

/-- Payload word `i` of a command, numbered from 1 as Table 48 does; an absent word reads 0. -/
def CmdMsg.word (m : CmdMsg) (i : Nat) : Word := m.payload.getD (i - 1) 0

/-- The channel a header's channel field names, if it names one (Table 46). -/
def chanOf (f : ChanField) : Option Chan := if h : f.toNat < 48 then some ⟨f.toNat, h⟩ else none

/-- The header's channel field for a channel. -/
def fieldOfChan (c : Chan) : ChanField := BitVec.ofNat 6 c.val

/-- The link a link field names: 0 to 3 (R161). -/
def linkOf (n : Nat) : Option Link := if h : n < 4 then some ⟨n, h⟩ else none

/-- A link field holding a link or none: none is 255 (section 11). -/
def linkByte : Option Link → Nat
  | some l => l.val
  | none => 255

/-- The gear a field holds (section 11-2). -/
def gearOf : Nat → Option Gear
  | 0 => some .off
  | 1 => some .train
  | 2 => some .track
  | 3 => some .hold
  | _ => none

/-- The EQ mode a field holds; 0 is no mode (section 11-2). -/
def eqModeOf : Nat → Option EqMode
  | 1 => some .train
  | 2 => some .track
  | 3 => some .hold
  | _ => none

/-- The loopback mode a field holds (section 11-2). -/
def loopbackOf : Nat → Option Loopback
  | 0 => some .noLoop
  | 1 => some .localLoop
  | 2 => some .lineLoop
  | _ => none

/-- The fill policy a field holds (section 11-2). -/
def fillOf : Nat → Option Fill
  | 0 => some .zeros
  | 1 => some .repeatLast
  | _ => none

/-- The code of a gear (section 11-2). -/
def Gear.code : Gear → Nat
  | .off => 0
  | .train => 1
  | .track => 2
  | .hold => 3

/-- The code of an EQ mode (section 11-2). -/
def EqMode.code : EqMode → Nat
  | .train => 1
  | .track => 2
  | .hold => 3

/-- The code of a loopback mode (section 11-2). -/
def Loopback.code : Loopback → Nat
  | .noLoop => 0
  | .localLoop => 1
  | .lineLoop => 2

/-- The code of a fill policy (section 11-2). -/
def Fill.code : Fill → Nat
  | .zeros => 0
  | .repeatLast => 1

/-- The code of a lifecycle state (Table 51). -/
def Life.code : Life → Nat
  | .free => 0
  | .opening => 1
  | .active => 2
  | .handoverPending => 3
  | .orphaned => 4

/-- Levels per axis of a constellation of M points (R91). -/
def levelsOf : Nat → Option Nat
  | 4 => some 2
  | 16 => some 4
  | 64 => some 8
  | 256 => some 16
  | _ => none

/-- The echo sizes of a channel. -/
structure Sizes where
  nn : Nat
  nf : Nat
  d : Nat
  deriving DecidableEq, Repr

/-- Step 1 of R6: the effective near count. -/
def effectiveNear (n : Nat) : Nat := roundUpTo 8 64 n

/-- Step 2 of R6: the effective far count. -/
def effectiveFar (n : Nat) : Nat := roundUpTo 16 128 n

/-- Steps 3 and 4 of R6: the effective bulk delay for an effective far count. -/
def effectiveDelay (nf d : Nat) : Nat := if nf = 0 then 0 else min d (Config.maxReach - nf)

/-- The effective sizes of R6. -/
def effectiveSizes (nn nf d : Nat) : Sizes :=
  { nn := effectiveNear nn, nf := effectiveFar nf, d := effectiveDelay (effectiveFar nf) d }

/-- The page count P = max(1, ceil(H / 256)) with H = max(Nn, D + Nf) (R6, R71). -/
def Sizes.pageCount (z : Sizes) : Nat :=
  max 1 ((max z.nn (z.d + z.nf) + (Config.pageSize - 1)) / Config.pageSize)

/-- The echo cost Nn + Nf (R6). -/
def Sizes.cost (z : Sizes) : Nat := z.nn + z.nf

/-- The effective sizes of an OPEN: absent sizes are Nn 32, Nf 0, D 0 (R6). -/
def openSizes (m : CmdMsg) : Sizes :=
  if m.payload.length < 2 then effectiveSizes 32 0 0
  else effectiveSizes (fieldAt (m.word 2) 0 8) (fieldAt (m.word 2) 8 8) (fieldAt (m.word 2) 16 16)

/-- The line options word: loopback 0–1, idle value 16–31 (Table 48); an absent word reads 0, which is loopback NONE
and idle value 0 (R6). -/
def loopbackField (w : Word) : Nat := fieldAt w 0 2

/-- An echo step exponent made effective: 12 to 30 (R63, R92). -/
def effectiveStep (n : Nat) : Nat := clampNat 12 30 n

/-- A leak exponent made effective: 0, or 12 to 30 (R63). -/
def effectiveLeak (n : Nat) : Nat := if n = 0 then 0 else clampNat 12 30 n

/-- An EQ tap count made effective: 8 to 32, even (R92). -/
def effectiveEqTaps (n : Nat) : Nat := if n ≤ 8 then 8 else if 32 < n then 32 else n + n % 2

/-- The half-spacing made effective: 1 to floor(32,767 / (L − 1)) (R92). -/
def effectiveSpacing (lv a : Nat) : Nat := clampNat 1 (32767 / (lv - 1)) a

/-- The filter set of CLEAR_TAPS, bits 0–7 (Table 48). -/
def filterSet (w : Word) : Nat := fieldAt w 0 8

/-- Does a set field name a member? -/
def hasBit (set i : Nat) : Bool := set / 2 ^ i % 2 == 1

/-- The words of a context-word group read by PEEK: `len` indexes of the aligned group, from `start` round (R155). -/
def burstIndexes (start len : Nat) : List Nat :=
  (List.range len).map fun i => start / len * len + (start % len + i) % len

end Sys2Proof.Machine
end

