-- ==== Sys2Proof/Machine/Flags.lean ====
section
/-! DEFINITION. The latched flags, the notice mask, the gears word, and the context words that STATUS, PEEK, COUNTERS
and WATCH read (R145, R149, R151, R154, sections 11-3 and 11-4). -/

namespace Sys2Proof.Machine

/-- The nine latched flags, in the order of Table 42. -/
inductive Flag where
  | underrun | late | jump | missing | rxOverrun | clipped | tapClamped | diverged | converged
  deriving DecidableEq, Repr

/-- The place of a flag in a flag set (section 11-2: the order of Table 42 from bit 0). -/
def Flag.index : Flag → Nat
  | .underrun => 0
  | .late => 1
  | .jump => 2
  | .missing => 3
  | .rxOverrun => 4
  | .clipped => 5
  | .tapClamped => 6
  | .diverged => 7
  | .converged => 8

/-- The six channel notice kinds of the mask (R145). -/
inductive MaskKind where
  | converged | diverged | underrun | playoutLow | playoutRecovered | rxOverrun
  deriving DecidableEq, Repr

/-- The place of a kind in the notice mask (section 11-2). -/
def MaskKind.index : MaskKind → Nat
  | .converged => 0
  | .diverged => 1
  | .underrun => 2
  | .playoutLow => 3
  | .playoutRecovered => 4
  | .rxOverrun => 5

/-- Is a kind in the channel's mask? -/
def Channel.enabled (ch : Channel) (k : MaskKind) : Bool := ch.mask.getLsbD k.index

/-- Latch a flag (R149). -/
def Channel.latch (ch : Channel) (f : Flag) : Channel := { ch with flags := ch.flags ||| (1#9 <<< f.index) }

/-- Is a flag latched? -/
def Channel.latched (ch : Channel) (f : Flag) : Bool := ch.flags.getLsbD f.index

/-- The depth: the number of occupied positions of the playout buffer (R32). -/
def Playout.depth (p : Playout) : Nat := (p.window.toList.filter Option.isSome).length

/-- The block sample index: the number of samples of the assembling block (R30, R79). DEDUCED (assumption 27): it is
therefore 0 from step 1 of the block boundary work on, where R80 empties that block, although R30 has it return to 0
after step 5; a watch of context word 13 (R159) shows the difference. -/
def Channel.blockIndex (ch : Channel) : Nat := ch.asm.length

/-- The gears word: NEAR 0–1, FAR 2–3, EQ mode 4–5, EQ present 6 (section 11-3). -/
def Channel.gearsWord (ch : Channel) : Word :=
  place ch.near.gear.code 0 2 ||| place ch.far.gear.code 2 2 |||
    (match ch.eq with
     | some q => place q.mode.code 4 2 ||| placeBit true 6
     | none => 0)

/-- The E word: E in bits 0–15, the next rx sequence in bits 16–31 (section 11-3). -/
def eWord (e nextRx : Seq) : Word := place e.toNat 0 16 ||| place nextRx.toNat 16 16

/-- OPEN word 2: Nn 0–7, Nf 8–15, D 16–31 (Table 48). -/
def sizesWord (nn nf d : Nat) : Word := place nn 0 8 ||| place nf 8 8 ||| place d 16 16

/-- OPEN word 3: loopback 0–1, idle value 16–31 (Table 48). -/
def lineWord (lb : Loopback) (idle : Sample) : Word := place lb.code 0 2 ||| place idle.toNat 16 16

/-- The exponents of a filter as state words 7 and 8 (Table 51). -/
def Filter.exponentsWord (f : Filter) : Word := place f.trainM 0 8 ||| place f.trackM 8 8 ||| place f.leak 16 8

/-- The slot byte of state word 1; a FREE channel has none and reads 255 (section 11-4). -/
def slotByte : Option Slot → Nat
  | some k => k.val
  | none => 255

/-- State words 20 to 22 (Table 51); the fields of an absent EQ context read 0. -/
def eqWords : Option EqCtx → List Word
  | none => [0, 0, 0]
  | some q =>
    [place q.ne 0 8 ||| place q.lv 8 8 ||| placeBit q.phase 16,
     place q.a 0 16 ||| place q.trainM 16 8 ||| place q.trackM 24 8,
     q.peps]

/-- Context words 0 to 31 (Table 51). Fields of an absent offer, retune or EQ context read 0; a link field of none
reads 255. -/
def Channel.stateWords (ch : Channel) : List Word :=
  [place ch.state.code 0 3 ||| place (linkByte ch.holder) 8 8 ||| place (linkByte ch.copy) 16 8
     ||| place (linkByte ch.saved) 24 8,
   (match ch.offer with
    | some o => place o.target.val 0 8 ||| place o.window 8 8
    | none => 0) ||| place (slotByte ch.slot) 16 8 ||| place ch.loopback.code 24 2,
   place ch.idle.toNat 0 16 ||| place ch.servingPages 16 8,
   sizesWord ch.nn ch.nf ch.d,
   place ch.charge 0 16 |||
     (match ch.retune with
      | some r => placeBit true 16 ||| place (linkByte r.requester) 24 8
      | none => 0),
   (match ch.retune with
    | some r => place r.nf 0 8 ||| place r.d 16 16
    | none => 0),
   ch.gearsWord ||| place ch.near.resume.code 8 2 ||| place ch.far.resume.code 10 2 |||
     (match ch.eq with
      | some q => place q.resume.code 12 2
      | none => 0) ||| placeBit ch.autoNear 16 ||| placeBit ch.autoFar 17,
   ch.near.exponentsWord,
   ch.far.exponentsWord,
   place ch.c 0 8 ||| place ch.convBlocks 8 8 ||| place ch.divBlocks 16 8,
   BitVec.ofNat 32 ch.floor,
   ch.py,
   ch.pe,
   place ch.convRun 0 8 ||| place ch.divRun 8 8 ||| place ch.blockIndex 16 8,
   BitVec.ofNat 32 ch.writePos,
   BitVec.ofNat 32 ch.filled,
   placeBit (ch.play.state == .playing) 0 ||| place ch.play.depth 8 8 ||| place ch.play.startDepth 16 8
     ||| place ch.play.lowWater 24 8,
   place ch.play.e.toNat 0 16 ||| place ch.play.fill.code 16 1 ||| placeBit ch.play.lastWasFill 17
     ||| placeBit ch.play.current.isSome 18 ||| place ch.play.readPos 24 8,
   place ch.nextRx.toNat 0 16 ||| place ch.rxq.length 16 8,
   place ch.mask.toNat 0 6 ||| place ch.flags.toNat 8 9]
  ++ eqWords ch.eq ++ List.replicate 9 0

/-- Context words 288 to 299: the twelve counters (Table 44). -/
def Counters.words (k : Counters) : List Word :=
  [k.blocksPlayed, k.clippedSamples, k.eqJobsDone, k.blocksMissing.setWidth 32, k.blocksLate.setWidth 32,
   k.blocksDuplicate.setWidth 32, k.jumps.setWidth 32, k.underruns.setWidth 32, k.rxBlocksDropped.setWidth 32,
   k.clampSamples.setWidth 32, k.divergences.setWidth 32, k.eqJobsSkipped.setWidth 32]

/-- A tap as a context word: a signed integer (R154). -/
def tapWord (t : Tap) : Word := t.signExtend 32

/-- EQ tap word `i` from 0: cr_k at 2k, ci_k at 2k + 1 (Table 44). -/
def eqTapWord (q : EqCtx) (i : Nat) : Word :=
  match q.taps[i / 2]? with
  | some t => tapWord (if i % 2 = 0 then t.1 else t.2)
  | none => 0

/-- The context word of an index (R154, Table 44). A word beyond a filter's count reads 0. -/
def Channel.contextWord (ch : Channel) (i : Nat) : Word :=
  if i < 32 then ch.stateWords.getD i 0
  else if i < 96 then tapWord (ch.near.taps.getD (i - 32) 0)
  else if i < 224 then tapWord (ch.far.taps.getD (i - 96) 0)
  else if i < 288 then (match ch.eq with | some q => eqTapWord q (i - 224) | none => 0)
  else ch.cnt.words.getD (i - 288) 0

end Sys2Proof.Machine
end

