-- ==== Sys2Proof/Machine/Ops.lean ====
section
/-! DEFINITION. The named operations over the state that the meanings share: records and ports, notices (R144, R147),
the command intake and responses (R136 to R138), pages and budgets (R17 to R20), the rx pending sets (R84), the orphan
hold and its end (R69, R70), results of equalizer jobs (R106), and the arrival of a message on a link (R129, R136). -/

namespace Sys2Proof.Machine

/-- The four links, in order. -/
def allLinks : List Link := [0, 1, 2, 3]

/-- The 48 channels, in rising order. -/
def allChans : List Chan := List.finRange 48

/-- The record of a channel. -/
def State.chan (s : State) (c : Chan) : Channel := s.channels[c.val]

/-- The state with a channel's record replaced. -/
def State.setChan (s : State) (c : Chan) (x : Channel) : State := { s with channels := s.channels.set c.val x }

/-- The state with a channel's record changed by `f`. -/
def State.updChan (s : State) (c : Chan) (f : Channel → Channel) : State := s.setChan c (f (s.chan c))

/-- A link port. -/
def State.port (s : State) (l : Link) : LinkPort := s.links[l.val]

/-- The state with a link port replaced. -/
def State.setPort (s : State) (l : Link) (p : LinkPort) : State := { s with links := s.links.set l.val p }

/-- The state with a link port changed by `f`. -/
def State.updPort (s : State) (l : Link) (f : LinkPort → LinkPort) : State := s.setPort l (f (s.port l))

/-- The state with every link port changed by `f`. -/
def State.updPorts (s : State) (f : LinkPort → LinkPort) : State :=
  { s with links := #v[f s.links[0], f s.links[1], f s.links[2], f s.links[3]] }

/-- The reset-in-progress mark: set exactly while a device clear or a power-on clear runs (R139). -/
def State.mark (s : State) : Bool := s.clear != .none

/-- Is the link DOWN? -/
def State.isDown (s : State) (l : Link) : Bool := (s.port l).state == .down

/-- Is the link UP, and the part not held in reset, so that what arrives on it is framed and taken (R132, R143)? -/
def State.listens (s : State) (l : Link) : Bool := !s.pin && (s.port l).state == .up

/-- A channel in this state runs frame operations (R26), but for the stop of a reset (R22). -/
def Life.runs : Life → Bool
  | .active | .handoverPending | .orphaned => true
  | .free | .opening => false

/-! ### Notices -/

/-- A port with a notice placed in its queue, or, when the queue is full, counted as lost (R147). -/
def LinkPort.putNotice (p : LinkPort) (n : Notice) : LinkPort :=
  if p.notices.length < Config.noticeDepth then { p with notices := p.notices ++ [n] }
  else { p with lost := stick16 p.lost, noticesLost := stick16 p.noticesLost }

/-- Place a notice for a link; a link that is DOWN is no recipient (R144). -/
def State.notify (s : State) (l : Link) (n : Notice) : State :=
  if s.isDown l then s else s.updPort l (·.putNotice n)

/-- Place a notice for each link of a list. -/
def State.notifyEach (s : State) (ls : List Link) (n : Notice) : State := ls.foldl (fun s l => s.notify l n) s

/-- Place a device notice, of channel field 63, for every link that is not DOWN (R144, Table 40). -/
def State.notifyDevice (s : State) (b : NoticeBody) : State := s.notifyEach allLinks { chan := 63, body := b }

/-- The recipients of a channel notice: the holder and the copy destination (R144, R145). -/
def Channel.recipients (ch : Channel) : List Link := ch.holder.toList ++ ch.copy.toList

/-- Raise a channel notice if its kind is in the channel's mask (R145). -/
def State.raise (s : State) (c : Chan) (k : MaskKind) (b : NoticeBody) : State :=
  if (s.chan c).enabled k then s.notifyEach (s.chan c).recipients { chan := fieldOfChan c, body := b } else s

/-! ### Intake and responses -/

/-- The first of the 4 intake places that no entry takes (R136). -/
def LinkPort.freePlace (p : LinkPort) : Option (Fin 4) := allLinks.find? fun k => p.intake.all fun e => e.place != k

/-- The entry of a place. -/
def LinkPort.entryAt (p : LinkPort) (k : Fin 4) : Option Entry := p.intake.find? fun e => e.place == k

/-- The entry in progress of a kind, for a channel field (R136). -/
def LinkPort.inProgress (p : LinkPort) (kind : CmdKind) (ch : ChanField) : Option Entry :=
  p.intake.find? fun e => e.msg.kind == kind && e.msg.chan == ch && e.state == .inProgress

/-- The port with the state of the entry at a place changed. -/
def LinkPort.markEntry (p : LinkPort) (k : Fin 4) (st : EntryState) : LinkPort :=
  { p with intake := p.intake.map fun e => if e.place = k then { e with state := st } else e }

/-- The port with the entry at a place released (R89, R136). -/
def LinkPort.releaseEntry (p : LinkPort) (k : Fin 4) : LinkPort :=
  { p with intake := p.intake.filter fun e => e.place != k }

/-- The response to an intake entry. -/
def Entry.response (e : Entry) (code : Code) (body : List Word) : Response :=
  { kind := e.msg.kind, chan := e.msg.chan, tag := e.msg.tag, code := code, body := body, entry := some e.place }

/-- Answer the command in an intake place: its response joins the response queue and the entry becomes ANSWERED
(R137, R138). An emptied place is not answered. -/
def LinkPort.answer (p : LinkPort) (k : Fin 4) (code : Code) (body : List Word) : LinkPort :=
  match p.entryAt k with
  | some e => { p.markEntry k .answered with responses := p.responses ++ [e.response code body] }
  | none => p

/-- Answer the command in a link's intake place. -/
def State.answer (s : State) (l : Link) (k : Fin 4) (code : Code) (body : List Word) : State :=
  s.updPort l (·.answer k code body)

/-- Answer the operation in progress of a kind and channel on a link, at its completion (R136); nothing where the
link's intake holds no such entry. -/
def State.answerOperation (s : State) (l : Link) (kind : CmdKind) (ch : ChanField) (code : Code) (body : List Word) :
    State :=
  match (s.port l).inProgress kind ch with
  | some e => s.answer l e.place code body
  | none => s

/-- How the taking of a command ends (R136, R137). -/
inductive Reply where
  /-- Completed or refused: the response with its code and further words. -/
  | done (code : Code) (body : List Word)
  /-- An operation was started; the response comes at its completion. -/
  | started
  /-- Held behind the running equalizer job (R107). -/
  | held
  deriving DecidableEq, Repr

/-- Settle the entry of a command that has just been taken. -/
def State.settle (s : State) (l : Link) (k : Fin 4) (m : CmdMsg) : Reply → State
  | .done code body => s.answer l k code body
  | .started => s.updPort l (·.markEntry k .inProgress)
  | .held => { s with held := s.held ++ [{ link := l, place := k, msg := m }] }

/-- The port whose next inbound word is at a header position: a whole message has been read (R129, R130). -/
def LinkPort.atHeader (p : LinkPort) : LinkPort := { p with framing := .header, part := [] }

/-- A port after a well-formed message: the malformed run is 0, the silence timer restarts, and the next word is at a
header position (R129, R133). -/
def LinkPort.heard (p : LinkPort) : LinkPort :=
  { p.atHeader with malformedRun := 0, timer := decide (p.setting ≠ 0) }

/-- What a command does when it is taken: from its link, its intake place and its message, the state and the reply. -/
abbrev Taking := Link → Fin 4 → CmdMsg → State → State × Reply

/-- The arrival of a command on a link (R129, R136, R137, R141). On a link that is not UP its words are ignored. With
all 4 entries occupied it is dropped, counted and reported. While a reset clear runs every command but DEVICE_STATUS is
answered RESETTING. Otherwise it is taken by its owner. -/
def State.arrive (s : State) (l : Link) (m : CmdMsg) (take : Taking) : State :=
  if s.listens l then
    let s := s.updPort l LinkPort.heard
    match (s.port l).freePlace with
    | none =>
      (s.updPort l fun p => { p with commandsDropped := stick16 p.commandsDropped }).notify l
        { chan := 63, body := .commandDropped m.kind m.chan m.tag }
    | some k =>
      let s := s.updPort l fun p => { p with intake := p.intake ++ [{ place := k, msg := m, state := .waiting }] }
      if s.mark && m.kind != .deviceStatus then s.answer l k .resetting []
      else (take l k m s).1.settle l k m (take l k m s).2
  else s

/-- Refuse with a code: no state changes and no further words (R138). -/
def refuse (s : State) (code : Code) : State × Reply := (s, .done code [])

/-- Take a command that names a channel: R2 refuses a channel field of 48 to 63 with BAD_CHANNEL. -/
def withChan (m : CmdMsg) (s : State) (f : Chan → State × Reply) : State × Reply :=
  match chanOf m.chan with
  | some c => f c
  | none => refuse s .badChannel

/-- The refusal of a holder command by the state of the channel and the rights of the sender (R4, R5, R42, R111):
FREE and ORPHANED NOT_HOLDER, OPENING BUSY, and ACTIVE or HANDOVER_PENDING NOT_HOLDER from any link but the holder. -/
def Channel.holderRefusal (ch : Channel) (l : Link) : Option Code :=
  match ch.state with
  | .free | .orphaned => some .notHolder
  | .opening => some .busy
  | .active | .handoverPending => if ch.holder = some l then none else some .notHolder

/-- Take a holder command on a channel (R111): refused by `holderRefusal`, or done by `f` on the channel. -/
def asHolder (l : Link) (m : CmdMsg) (s : State) (f : Chan → State × Reply) : State × Reply :=
  withChan m s fun c =>
    match (s.chan c).holderRefusal l with
    | some code => refuse s code
    | none => f c

/-- Is the engine running a job of this channel, marked CLOSED or not (R107)? -/
def State.jobRuns (s : State) (c : Chan) : Bool :=
  match s.engine with
  | some j => j.chan == c
  | none => false

/-! ### Pages and budgets -/

/-- Grant `k` pages from the head of the free list to the tail of a channel's page list (R19). -/
def State.grantPages (s : State) (c : Chan) (k : Nat) : State :=
  { s.updChan c (fun ch => { ch with pages := ch.pages ++ s.freeList.take k }) with freeList := s.freeList.drop k }

/-- Release the last `k` pages of a channel's page list to the tail of the free list, in their order (R20). -/
def State.releasePages (s : State) (c : Chan) (k : Nat) : State :=
  let ps := (s.chan c).pages
  { s.updChan c (fun ch => { ch with pages := ps.take (ps.length - k) }) with
    freeList := s.freeList ++ ps.drop (ps.length - k) }

/-- Replace a channel's charged echo cost, the budget in use moving by the difference (R17). -/
def State.recharge (s : State) (c : Chan) (cost : Nat) : State :=
  { s.updChan c (fun ch => { ch with charge := cost }) with echoUsed := s.echoUsed - (s.chan c).charge + cost }

/-! ### Delivery -/

/-- An rx queue with some links removed from every pending set, emptied entries dropped (R84, R85). -/
def editQueue (keep : Link → Bool) (q : List RxEntry) : List RxEntry :=
  (q.map fun e => { e with due := e.due.filter keep }).filter fun e => !e.due.isEmpty

/-- Edit the pending sets after a change of holder or copy destination: every link that is now neither leaves (R84). -/
def Channel.editRx (ch : Channel) : Channel :=
  { ch with rxq := editQueue (fun l => ch.holder == some l || ch.copy == some l) ch.rxq }

/-! ### The orphan hold -/

/-- The gear that the orphan hold gives (R69). -/
def Gear.held : Gear → Gear
  | .train | .track | .hold => .hold
  | .off => .off

/-- The orphan hold of one filter (R69). -/
def Filter.orphanHold (f : Filter) : Filter := { f with resume := f.gear, gear := f.gear.held }

/-- The orphan hold of an EQ context (R69). -/
def EqCtx.orphanHold (q : EqCtx) : EqCtx := { q with resume := q.mode, mode := .hold }

/-- The orphan hold of a channel (R69). DEDUCED (assumption 26): the runs become 0 here, as R68 and R70 say they are
while the channel is ORPHANED, though the table of R68 has no line for the orphan hold. -/
def Channel.orphanHold (ch : Channel) : Channel :=
  { ch with
    near := ch.near.orphanHold, far := ch.far.orphanHold, eq := ch.eq.map EqCtx.orphanHold, convRun := 0, divRun := 0 }

/-- The end of the orphan hold for one filter; a filter without taps stays OFF (R70, R61). -/
def Filter.restore (f : Filter) : Filter := { f with gear := if f.taps.isEmpty then .off else f.resume }

/-- The end of the orphan hold of a channel (R70). -/
def Channel.restoreGears (ch : Channel) : Channel :=
  { ch with near := ch.near.restore, far := ch.far.restore, eq := ch.eq.map fun q => { q with mode := q.resume } }

/-- The notice ORPHANED of a channel (R11, R114). -/
def Channel.orphanedNotice (ch : Channel) (c : Chan) (former : Option Link) : Notice :=
  { chan := fieldOfChan c, body := .orphaned former (ch.offer.map Offer.target) ch.play.e ch.nextRx }

/-- Remove an offer, the saved shadow becoming the copy destination again (R116, R119, R121, R122). -/
def Channel.endOffer (ch : Channel) : Channel := { ch with offer := none, copy := ch.saved, saved := none }

/-- A HANDOVER_PENDING channel returns to ACTIVE; in any other state nothing changes (R119, R121, R122). -/
def Channel.backToActive (ch : Channel) : Channel :=
  if ch.state = .handoverPending then { ch with state := .active } else ch

/-! ### Results of equalizer jobs -/

/-- A result made without outputs (R106). -/
def EqResult.bare (st : EqStatus) : EqResult := { status := st, outputs := [], peps := 0 }

/-- Is the job QUEUED for this channel? -/
def Job.queuedFor (c : Chan) (j : Job) : Bool := decide (j.state = .queued) && j.chan == fieldOfChan c

/-- Make the result of every QUEUED job of a channel on one port at once; the slots become READY (R93, R108, R109).
`n` numbers the action for the free order among them (`Config.resultOrderKey`). -/
def LinkPort.finishQueued (p : LinkPort) (c : Chan) (st : EqStatus) (n : Nat) : LinkPort :=
  { p with
    jobs := p.jobs.map fun j => if j.queuedFor c then { j with state := .ready (EqResult.bare st) } else j
    ready := p.ready ++
      sortByKey (fun k => Config.resultOrderKey n k.val) ((p.jobs.filter (Job.queuedFor c)).map Job.place) }

/-- Make the result of every QUEUED job of a channel, on every link (R93, R108). -/
def State.finishQueued (s : State) (c : Chan) (st : EqStatus) : State :=
  { s.updPorts (·.finishQueued c st s.freeCount) with freeCount := s.freeCount + 1 }

/-- Make the result of every QUEUED job of a channel from one link (R109). -/
def State.finishQueuedOf (s : State) (l : Link) (c : Chan) (st : EqStatus) : State :=
  { s.updPort l (·.finishQueued c st s.freeCount) with freeCount := s.freeCount + 1 }

/-! ### The highway -/

/-- Read the inbound sample of a channel's slot (R27); a channel without a slot has none and reads 0. -/
def Channel.inboundOf (ch : Channel) (inbound : Vector Sample 64) : Sample :=
  match ch.slot with
  | some k => inbound[k.val]
  | none => 0

/-- Drive a channel's outbound slot with a sample (R31). -/
def State.drive (s : State) (slot : Option Slot) (x : Sample) : State :=
  match slot with
  | some k => { s with outbound := s.outbound.set k.val (some x) }
  | none => s

/-- No outbound slot driven (R25, R31). -/
def State.undrive (s : State) : State := { s with outbound := Vector.replicate 64 none }

end Sys2Proof.Machine
end

