-- ==== Sys2Proof/Machine/Reports.lean ====
section
/-! DEFINITION. Notices, status and counters (chapter 9): SET_NOTICES, STATUS, COUNTERS, DEVICE_STATUS. -/

namespace Sys2Proof.Machine

/-- Take a SET_NOTICES (R146): a member that is none of the six kinds is refused with BAD_VALUE. -/
def takeSetNotices : Taking := fun l _ m s =>
  asHolder l m s fun c =>
    let set := fieldAt (m.word 1) 0 8
    if 64 ≤ set then refuse s .badValue
    else (s.updChan c fun ch => { ch with mask := BitVec.ofNat 6 set }, .done .ok [place set 0 8])

/-- SET_NOTICES (R145, R146). -/
def execSetNotices (l : Link) (ch : ChanField) (tag : Tag) (w1 : Word) (s : State) :
    Host.Outcome State Fault Refusal :=
  .next (s.arrive l { kind := .setNotices, chan := ch, tag := tag, payload := [w1] } takeSetNotices)

/-! ### STATUS (R150) -/

/-- The clear set of a STATUS; an absent one is empty (R150). -/
def clearSet (m : CmdMsg) : Nat := fieldAt (m.word 1) 0 16

/-- The refusal of a STATUS (R150): a member that is no flag, or a clear set without the right. -/
def Channel.statusRefusal (ch : Channel) (l : Link) (set : Nat) : Option Code :=
  if 512 ≤ set then some .badValue
  else if set = 0 ∨ ch.state = .opening then none
  else
    match ch.state with
    | .free | .orphaned => some .notHolder
    | .active | .handoverPending => if ch.holder = some l then none else some .notHolder
    | .opening => none

/-- The record with the flags of a clear set cleared; an OPENING channel's clear set clears nothing (R4, R150). -/
def Channel.clearFlags (ch : Channel) (set : Nat) : Channel :=
  if ch.state = .opening then ch else { ch with flags := ch.flags &&& ~~~(BitVec.ofNat 9 set) }

/-- Take a STATUS (R4, R150): context words 0 to 31 as they stand, then the named flags are cleared. -/
def takeStatus : Taking := fun l _ m s =>
  withChan m s fun c =>
    match (s.chan c).statusRefusal l (clearSet m) with
    | some code => refuse s code
    | none => (s.updChan c (·.clearFlags (clearSet m)), .done .ok (s.chan c).stateWords)

/-- STATUS (R150). -/
def execStatus (l : Link) (ch : ChanField) (tag : Tag) (w1 : Option Word) (s : State) :
    Host.Outcome State Fault Refusal :=
  .next (s.arrive l { kind := .status, chan := ch, tag := tag, payload := w1.toList } takeStatus)

/-! ### COUNTERS (R151, R152) -/

/-- Does a COUNTERS carry the clear option (Table 48)? -/
def clearOption (m : CmdMsg) : Bool := hasBit (m.word 1).toNat 0

/-- The four counters of a link as words (Table 49). -/
def LinkPort.counterWords (p : LinkPort) : List Word :=
  [p.malformedMessages.setWidth 32, p.commandsDropped.setWidth 32, p.foreignBlocks.setWidth 32,
   p.noticesLost.setWidth 32]

/-- The port with its four counters 0 (R140, R152). -/
def LinkPort.clearCounters (p : LinkPort) : LinkPort :=
  { p with malformedMessages := 0, commandsDropped := 0, foreignBlocks := 0, noticesLost := 0 }

/-- The refusal of a COUNTERS of a channel (R152). -/
def Channel.countersRefusal (ch : Channel) (l : Link) (clear : Bool) : Option Code :=
  match ch.state with
  | .opening => some .busy
  | .free | .orphaned => if clear then some .notHolder else none
  | .active | .handoverPending => if clear && ch.holder != some l then some .notHolder else none

/-- Take a COUNTERS (R152): of the sending link for channel field 63, else of a channel. -/
def takeCounters : Taking := fun l _ m s =>
  if m.chan = 63 then
    (if clearOption m then s.updPort l LinkPort.clearCounters else s, .done .ok (s.port l).counterWords)
  else
    withChan m s fun c =>
      match (s.chan c).countersRefusal l (clearOption m) with
      | some code => refuse s code
      | none =>
        (if clearOption m then s.updChan c fun ch => { ch with cnt := Counters.zero } else s,
         .done .ok (s.chan c).cnt.words)

/-- COUNTERS (R152). -/
def execCounters (l : Link) (ch : ChanField) (tag : Tag) (w1 : Option Word) (s : State) :
    Host.Outcome State Fault Refusal :=
  .next (s.arrive l { kind := .counters, chan := ch, tag := tag, payload := w1.toList } takeCounters)

/-! ### DEVICE_STATUS (R153) -/

/-- The code of a link state (section 11-3). -/
def LinkState.code : LinkState → Nat
  | .down => 0
  | .up => 1
  | .outOfStep => 2

/-- The further words of the OK to DEVICE_STATUS (R153, Table 49). -/
def State.deviceWords (s : State) : List Word :=
  [place s.freeList.length 0 8 ||| placeBit s.locked 8 ||| placeBit s.mark 9
     ||| place (s.port 0).state.code 16 2 ||| place (s.port 1).state.code 18 2
     ||| place (s.port 2).state.code 20 2 ||| place (s.port 3).state.code 22 2,
   place s.echoUsed 0 16 ||| place s.eqUsed 16 16]

/-- Take a DEVICE_STATUS (R153): its channel field must be 63. -/
def takeDeviceStatus : Taking := fun _ _ m s =>
  if m.chan = 63 then (s, .done .ok s.deviceWords) else refuse s .badChannel

/-- DEVICE_STATUS (R153); it is answered in full while a reset clear runs (R141). -/
def execDeviceStatus (l : Link) (ch : ChanField) (tag : Tag) (s : State) : Host.Outcome State Fault Refusal :=
  .next (s.arrive l { kind := .deviceStatus, chan := ch, tag := tag, payload := [] } takeDeviceStatus)

end Sys2Proof.Machine
end

