-- ==== Sys2Proof/Machine/Formats.lean ====
section
/-! DEFINITION. Outbound words (chapter 11, R128, R161, R162): the header and payload words of every message the part
sends, and what a link port has on its outbound stream. -/

namespace Sys2Proof.Machine

/-- The number of a command kind (Table 47). -/
def kindCode : CmdKind → Nat
  | .openChannel => 1
  | .closeChannel => 2
  | .setNear => 3
  | .setFar => 4
  | .setAdapt => 5
  | .clearTaps => 6
  | .setPlayout => 7
  | .setLine => 8
  | .setNotices => 9
  | .setShadow => 10
  | .handover => 11
  | .accept => 12
  | .decline => 13
  | .adopt => 14
  | .eqOpen => 15
  | .eqClose => 16
  | .eqSet => 17
  | .peek => 18
  | .poke => 19
  | .status => 20
  | .counters => 21
  | .deviceStatus => 22
  | .watch => 23
  | .nop => 24
  | .linkConfig => 25
  | .resetDevice => 26

/-- The number of a response code (Table 50). -/
def codeNumber : Code → Nat
  | .ok => 0
  | .superseded => 1
  | .closed => 2
  | .badChannel => 16
  | .badValue => 17
  | .notFree => 18
  | .slotTaken => 19
  | .noBudget => 20
  | .noHistory => 21
  | .noEqSpace => 22
  | .notHolder => 23
  | .notOrphaned => 24
  | .notOffered => 25
  | .busy => 26
  | .inUse => 27
  | .readOnly => 28
  | .resetting => 29
  | .linkDown => 30

/-- The number of a reason (section 11-3). -/
def reasonNumber : Reason → Nat
  | .closed => 1
  | .expired => 2
  | .adopted => 3
  | .declined => 4
  | .targetDown => 5

/-- The number of an EQ_OUT status (section 11-3). -/
def eqStatusNumber : EqStatus → Nat
  | .ok => 0
  | .noEq => 1
  | .notHolder => 2
  | .closed => 3

/-- A header word: kind 0–5, channel 6–11, length 12–17, tag 18–29, bits 30 and 31 sent as 0 (Table 46, R161). -/
def headerWord (kind : Nat) (ch : ChanField) (len : Nat) (tag : Tag) : Word :=
  place kind 0 6 ||| place ch.toNat 6 6 ||| place len 12 6 ||| place tag.toNat 18 12

/-- A whole message: its header and its payload. -/
def messageOf (kind : Nat) (ch : ChanField) (tag : Tag) (payload : List Word) : List Word :=
  headerWord kind ch payload.length tag :: payload

/-- The first payload word of a notice: kind 0–7, and a reason in 8–15 where the kind has one (section 11-3). -/
def noticeFirst (kind : Nat) (reason : Nat) : Word := place kind 0 8 ||| place reason 8 8

/-- A filter set in the CLEAR_TAPS layout. -/
def filterSetWord (near far : Bool) : Word := placeBit near 0 ||| placeBit far 1

/-- The payload words of a notice (Table 49, Table 50). -/
def NoticeBody.words : NoticeBody → List Word
  | .converged n f => [noticeFirst 1 0, filterSetWord n f]
  | .diverged n f => [noticeFirst 2 0, filterSetWord n f]
  | .underrun e => [noticeFirst 3 0, place e.toNat 0 16]
  | .playoutLow d w => [noticeFirst 4 0, place d 0 8 ||| place w 8 8]
  | .playoutRecovered d w => [noticeFirst 5 0, place d 0 8 ||| place w 8 8]
  | .rxOverrun q => [noticeFirst 6 0, place q.toNat 0 16]
  | .offer h w e r => [noticeFirst 7 0, place (linkByte h) 0 8 ||| place w 8 8, eWord e r]
  | .offerWithdrawn why => [noticeFirst 8 (reasonNumber why)]
  | .handoverDone l => [noticeFirst 9 0, place l.val 0 8]
  | .adopted l g => [noticeFirst 10 0, place l.val 0 8, g]
  | .highwayLocked => [noticeFirst 11 0]
  | .highwayLost => [noticeFirst 12 0]
  | .resetDone => [noticeFirst 13 0]
  | .eqSkipped tag => [noticeFirst 14 0, place tag.toNat 0 12]
  | .commandDropped k ch tag =>
    [noticeFirst 15 0, place (kindCode k) 0 6 ||| place ch.toNat 8 6 ||| place tag.toNat 16 12]
  | .watchEnded => [noticeFirst 16 0]
  | .noticesLost n => [noticeFirst 17 0, place n.toNat 0 16]
  | .orphaned f t e r => [noticeFirst 18 0, place (linkByte f) 0 8 ||| place (linkByte t) 8 8, eWord e r]
  | .handoverFailed t why => [noticeFirst 19 (reasonNumber why), place t.val 0 8]

/-- The words of one equalizer output (Table 49). -/
def EqOutput.words (o : EqOutput) : List Word :=
  [packPair o.z.1 o.z.2, place o.reIndex 0 8 ||| place o.imIndex 8 8]

/-- The payload words of an EQ_OUT (Table 49). -/
def EqResult.words (r : EqResult) : List Word :=
  (place (eqStatusNumber r.status) 0 8 ||| place r.outputs.length 8 4) :: r.outputs.flatMap EqOutput.words ++ [r.peps]

/-- The words of a message the part sends: a RESPONSE carries its command's channel field and tag, an EQ_OUT its
EQ_IN's, and the others tag 0 (R161, Tables 47 and 49). -/
def OutMsg.words : OutMsg → List Word
  | .response r => messageOf 48 r.chan r.tag ((place (kindCode r.kind) 0 6 ||| place (codeNumber r.code) 8 8) :: r.body)
  | .notice n => messageOf 49 n.chan 0 n.body.words
  | .rxBlock c q samples => messageOf 50 (fieldOfChan c) 0 (place q.toNat 0 16 :: packSamples samples)
  | .eqOut tag ch r _ => messageOf 51 ch tag r.words
  | .watchData d =>
    messageOf 52 (fieldOfChan d.chan) 0
      [place d.index 0 16 ||| place d.rxSeq.toNat 16 16, d.word, d.py, d.pe, d.gears]

/-- What a port has on its outbound word stream (R128): all-zero words while DOWN, two all-ones words on becoming UP,
the message being sent, or an idle word. -/
def LinkPort.outboundWords (p : LinkPort) : List Word :=
  match p.state, p.tx with
  | .down, _ => [0]
  | _, .resyncPair => [0xFFFFFFFF#32, 0xFFFFFFFF#32]
  | _, .sending m => m.words
  | _, .idle => [0]

end Sys2Proof.Machine
end

