-- ==== Sys2Proof/WellFormed.lean ====
section
/-! DEFINITION. Well-formed commands: what a header's 6-bit length field and Table 47 admit. The types of `Instr`
already fix every other payload's length. -/

namespace Sys2Proof

/-- The payload lengths of NOP and EQ_IN that Table 47 permits. -/
def WellFormed : Instr → Bool
  | .nop _ _ _ payload => decide (payload.length ≤ 63)
  | .eqIn _ _ _ payload => decide (2 ≤ payload.length ∧ payload.length ≤ 25)
  | .openChannel .. | .contextClearComplete _ | .closeChannel .. | .setNear .. | .setFar .. | .setAdapt ..
  | .clearTaps .. | .setPlayout .. | .setLine .. | .setNotices .. | .setShadow .. | .handover .. | .accept ..
  | .decline .. | .adopt .. | .eqOpen .. | .eqClose .. | .eqSet .. | .peek .. | .poke .. | .status ..
  | .counters .. | .deviceStatus .. | .watch .. | .linkConfig .. | .resetDevice .. | .txBlock ..
  | .jobStart | .eqInputPush | .jobComplete | .malformedHeader _ | .resync _ | .silenceTimerExpiry _
  | .handoverExpiry _ | .frameSync .. | .syncWindowClose | .frameArrival .. | .transmitStart _
  | .messageCompletion _ | .deviceClearComplete | .powerOn | .resetPinAssert | .resetPinRelease
  | .powerOnClearComplete | .handoverTimerTick _ | .resyncPairSent _ => true

end Sys2Proof
end

