-- ==== Sys2Proof/Decode.lean ====
section
/-! DEFINITION. Inbound words: reading a message's words as a command (Tables 46 to 48, R130), writing a command's words,
framing the inbound stream (R129, R131), and the table decoder. spec/opcode_table.json gives its rows no bits, so the
table decoder answers none for every word. -/

namespace Sys2Proof

open Sys2Proof.Machine

/-- The command a word spells by the bits of spec/opcode_table.json. No row of the table gives bits, so no word spells
one. -/
def decodeTableWord (_nbits _w : Nat) : Option Instr := none

/-- The words of a message that a pump sends; an event is no message. The tag of a TX_BLOCK is free: 0. -/
def Instr.words : Instr → List Word
  | .openChannel _ ch tag p => messageOf 1 ch tag p.words
  | .closeChannel _ ch tag => messageOf 2 ch tag []
  | .setNear _ ch tag w => messageOf 3 ch tag [w]
  | .setFar _ ch tag w => messageOf 4 ch tag [w]
  | .setAdapt _ ch tag w1 w2 w3 w4 => messageOf 5 ch tag [w1, w2, w3, w4]
  | .clearTaps _ ch tag w => messageOf 6 ch tag [w]
  | .setPlayout _ ch tag w => messageOf 7 ch tag [w]
  | .setLine _ ch tag w => messageOf 8 ch tag [w]
  | .setNotices _ ch tag w => messageOf 9 ch tag [w]
  | .setShadow _ ch tag w => messageOf 10 ch tag [w]
  | .handover _ ch tag p => messageOf 11 ch tag p.words
  | .accept _ ch tag => messageOf 12 ch tag []
  | .decline _ ch tag => messageOf 13 ch tag []
  | .adopt _ ch tag => messageOf 14 ch tag []
  | .eqOpen _ ch tag p => messageOf 15 ch tag p.words
  | .eqClose _ ch tag => messageOf 16 ch tag []
  | .eqSet _ ch tag w => messageOf 17 ch tag [w]
  | .peek _ ch tag w => messageOf 18 ch tag [w]
  | .poke _ ch tag w1 w2 => messageOf 19 ch tag [w1, w2]
  | .status _ ch tag w => messageOf 20 ch tag w.toList
  | .counters _ ch tag w => messageOf 21 ch tag w.toList
  | .deviceStatus _ ch tag => messageOf 22 ch tag []
  | .watch _ ch tag w => messageOf 23 ch tag [w]
  | .nop _ ch tag ws => messageOf 24 ch tag ws
  | .linkConfig _ ch tag w => messageOf 25 ch tag [w]
  | .resetDevice _ ch tag => messageOf 26 ch tag []
  | .txBlock _ ch w samples => messageOf 32 ch 0 (w :: samples.toList)
  | .eqIn _ ch tag ws => messageOf 33 ch tag ws
  | .contextClearComplete _ | .jobStart | .eqInputPush | .jobComplete | .malformedHeader _ | .resync _
  | .silenceTimerExpiry _ | .handoverExpiry _ | .frameSync _ _ | .syncWindowClose | .frameArrival _ _
  | .transmitStart _ | .messageCompletion _ | .deviceClearComplete | .powerOn | .resetPinAssert
  | .resetPinRelease | .powerOnClearComplete | .handoverTimerTick _ | .resyncPairSent _ => []

/-- Is this a message that a pump sends? -/
def Instr.isMessage (i : Instr) : Bool := !i.words.isEmpty

/-- The link a message arrives on (link 0 for an event, which has none). -/
def Instr.link : Instr → Link
  | .openChannel l _ _ _ | .closeChannel l _ _ | .setNear l _ _ _ | .setFar l _ _ _ | .setAdapt l _ _ _ _ _ _
  | .clearTaps l _ _ _ | .setPlayout l _ _ _ | .setLine l _ _ _ | .setNotices l _ _ _ | .setShadow l _ _ _
  | .handover l _ _ _ | .accept l _ _ | .decline l _ _ | .adopt l _ _ | .eqOpen l _ _ _ | .eqClose l _ _
  | .eqSet l _ _ _ | .peek l _ _ _ | .poke l _ _ _ _ | .status l _ _ _ | .counters l _ _ _ | .deviceStatus l _ _
  | .watch l _ _ _ | .nop l _ _ _ | .linkConfig l _ _ _ | .resetDevice l _ _ | .txBlock l _ _ _ | .eqIn l _ _ _ => l
  | .malformedHeader l | .resync l | .silenceTimerExpiry l | .transmitStart l | .messageCompletion l
  | .resyncPairSent l => l
  | .contextClearComplete _ | .jobStart | .eqInputPush | .jobComplete | .handoverExpiry _ | .frameSync _ _
  | .syncWindowClose | .frameArrival _ _ | .deviceClearComplete | .powerOn | .resetPinAssert | .resetPinRelease
  | .powerOnClearComplete | .handoverTimerTick _ => 0

/-- The kind field of a header (Table 46). -/
def headerKind (w : Word) : Nat := fieldAt w 0 6

/-- The channel field of a header (Table 46). -/
def headerChan (w : Word) : ChanField := BitVec.ofNat 6 (fieldAt w 6 6)

/-- The length field of a header (Table 46). -/
def headerLength (w : Word) : Nat := fieldAt w 12 6

/-- The tag of a header (Table 46). -/
def headerTag (w : Word) : Tag := BitVec.ofNat 12 (fieldAt w 18 12)

/-- The payload lengths Table 47 permits for a kind a pump may send; no kind else is permitted any (R130). -/
def lengthPermitted (kind len : Nat) : Bool :=
  match kind with
  | 1 => decide (len = 1 ∨ len = 2 ∨ len = 3)
  | 2 | 12 | 13 | 14 | 16 | 22 | 26 => decide (len = 0)
  | 3 | 4 | 6 | 7 | 8 | 9 | 10 | 17 | 18 | 23 | 25 => decide (len = 1)
  | 5 => decide (len = 4)
  | 11 => decide (len = 1 ∨ len = 2)
  | 15 => decide (len = 1 ∨ len = 3)
  | 19 => decide (len = 2)
  | 20 | 21 => decide (len = 0 ∨ len = 1)
  | 24 => decide (len ≤ 63)
  | 32 => decide (len = 9)
  | 33 => decide (2 ≤ len ∧ len ≤ 25)
  | _ => false

/-- Is a word a well-formed header (R130)? -/
def headerOk (w : Word) : Bool := lengthPermitted (headerKind w) (headerLength w)

/-- The message a kind, channel field, tag and payload make on a link (Table 48); none where the payload's length is
not one the kind permits. -/
def commandOf (l : Link) (kind : Nat) (ch : ChanField) (tag : Tag) (payload : List Word) : Option Instr :=
  match kind, payload with
  | 1, [a] => some (.openChannel l ch tag (.slot a))
  | 1, [a, b] => some (.openChannel l ch tag (.sizes a b))
  | 1, [a, b, c] => some (.openChannel l ch tag (.line a b c))
  | 2, [] => some (.closeChannel l ch tag)
  | 3, [a] => some (.setNear l ch tag a)
  | 4, [a] => some (.setFar l ch tag a)
  | 5, [a, b, c, d] => some (.setAdapt l ch tag a b c d)
  | 6, [a] => some (.clearTaps l ch tag a)
  | 7, [a] => some (.setPlayout l ch tag a)
  | 8, [a] => some (.setLine l ch tag a)
  | 9, [a] => some (.setNotices l ch tag a)
  | 10, [a] => some (.setShadow l ch tag a)
  | 11, [a] => some (.handover l ch tag (.target a))
  | 11, [a, b] => some (.handover l ch tag (.window a b))
  | 12, [] => some (.accept l ch tag)
  | 13, [] => some (.decline l ch tag)
  | 14, [] => some (.adopt l ch tag)
  | 15, [a] => some (.eqOpen l ch tag (.short a))
  | 15, [a, b, c] => some (.eqOpen l ch tag (.long a b c))
  | 16, [] => some (.eqClose l ch tag)
  | 17, [a] => some (.eqSet l ch tag a)
  | 18, [a] => some (.peek l ch tag a)
  | 19, [a, b] => some (.poke l ch tag a b)
  | 20, [] => some (.status l ch tag none)
  | 20, [a] => some (.status l ch tag (some a))
  | 21, [] => some (.counters l ch tag none)
  | 21, [a] => some (.counters l ch tag (some a))
  | 22, [] => some (.deviceStatus l ch tag)
  | 23, [a] => some (.watch l ch tag a)
  | 24, ws => if ws.length ≤ 63 then some (.nop l ch tag ws) else none
  | 25, [a] => some (.linkConfig l ch tag a)
  | 26, [] => some (.resetDevice l ch tag)
  | 32, [w, a, b, c, d, e, f, g, h] => some (.txBlock l ch w #v[a, b, c, d, e, f, g, h])
  | 33, ws => if 2 ≤ ws.length ∧ ws.length ≤ 25 then some (.eqIn l ch tag ws) else none
  | _, _ => none

/-- The message that a list of words is, read on a link: a header whose length field is the number of words that follow
it (R129, R130). -/
def decodeMessage (l : Link) : List Word → Option Instr
  | [] => none
  | w :: ws =>
    if headerLength w = ws.length then commandOf l (headerKind w) (headerChan w) (headerTag w) ws else none

/-! ### Framing (R128, R129, R131) -/

/-- Does the stream have word alignment? -/
def Machine.Framing.aligned : Framing → Bool
  | .unaligned _ => false
  | .header | .waiting | .extended | .payload _ _ _ => true

/-- A message whose last word has arrived (R129). -/
def arrived (l : Link) (h : Word) (got : List Word) : List Instr :=
  (commandOf l (headerKind h) (headerChan h) (headerTag h) got).toList

/-- A word at a header position that is neither all zeros nor all ones (R129, R130). -/
def headerWordIn (l : Link) (w : Word) : Framing × List Instr :=
  if headerOk w then
    if headerLength w = 0 then (.header, arrived l w []) else (.payload w (headerLength w) [], [])
  else (.header, [.malformedHeader l])

/-- A word at a header position (R129). -/
def headerPosition (l : Link) (w : Word) : Framing × List Instr :=
  if w = 0 then (.header, []) else if w = 0xFFFFFFFF#32 then (.waiting, []) else headerWordIn l w

/-- One aligned inbound word: where the stream then stands, and what has arrived (R129, R131). An unaligned stream has
no words. -/
def Machine.Framing.word (l : Link) : Framing → Word → Framing × List Instr
  | .unaligned n, _ => (.unaligned n, [])
  | .header, w => headerPosition l w
  | .waiting, w =>
    if w = 0xFFFFFFFF#32 then (.extended, [.resync l])
    else ((headerPosition l w).1, .malformedHeader l :: (headerPosition l w).2)
  | .extended, w => if w = 0xFFFFFFFF#32 then (.extended, []) else headerPosition l w
  | .payload h left got, w =>
    if left ≤ 1 then (.header, arrived l h (got ++ [w])) else (.payload h (left - 1) (got ++ [w]), [])

/-- The bits of a word in the order they are sent: least significant bit first (R128). -/
def wordBits (w : Word) : List Bool := (List.range 32).map w.getLsbD

/-- The word that 32 bits make, oldest first: the first is the least significant (R128). -/
def wordOfBits (bits : List Bool) : Word := BitVec.ofNat 32 (bits.foldr (fun b n => 2 * n + b.toNat) 0)

/-- One inbound bit, `part` being the bits of the word begun: where the stream then stands with the bits of its word, and
what has arrived. On a stream without word alignment the 64th consecutive 1 is a RESYNC pair, and the next bit begins a
word at a header position (R131). On an aligned stream the 32nd bit ends a word (R128). -/
def Machine.Framing.bit (l : Link) (f : Framing) (part : List Bool) (b : Bool) : Framing × List Bool × List Instr :=
  match f with
  | .unaligned n =>
    if b then (if 63 ≤ n then (.extended, [], [.resync l]) else (.unaligned (n + 1), [], []))
    else (.unaligned 0, [], [])
  | .header | .waiting | .extended | .payload _ _ _ =>
    if 31 ≤ part.length then
      ((f.word l (wordOfBits (part ++ [b]))).1, [], (f.word l (wordOfBits (part ++ [b]))).2)
    else (f, part ++ [b], [])

/-- A run of inbound bits. -/
def Machine.Framing.bits (l : Link) : Framing → List Bool → List Bool → Framing × List Bool × List Instr
  | f, part, [] => (f, part, [])
  | f, part, b :: bs =>
    (((f.bit l part b).1.bits l (f.bit l part b).2.1 bs).1, ((f.bit l part b).1.bits l (f.bit l part b).2.1 bs).2.1,
     (f.bit l part b).2.2 ++ ((f.bit l part b).1.bits l (f.bit l part b).2.1 bs).2.2)

/-- A run of aligned words. -/
def Machine.Framing.words (l : Link) : Framing → List Word → Framing × List Instr
  | f, [] => (f, [])
  | f, w :: ws => (((f.word l w).1.words l ws).1, (f.word l w).2 ++ ((f.word l w).1.words l ws).2)

/-- What a port has on its outbound stream, bit by bit in the order it is sent (R128). -/
def Machine.LinkPort.outboundBits (p : LinkPort) : List Bool := p.outboundWords.flatMap wordBits

end Sys2Proof
end

