-- ==== Sys2Proof/Machine/Delivery.lean ====
section
/-! DEFINITION. Receive blocks and delivery (chapter 5): closing an rx block, the rx queue, and the link transmitter's
TRANSMIT_START, MESSAGE_COMPLETION and RESYNC_PAIR_SENT. -/

namespace Sys2Proof.Machine

/-! ### The rx queue (R80 to R83) -/

/-- The record after a closed block joins the rx queue, the oldest entry dropped from a full queue (R82, R83). -/
def Channel.queueRx (ch : Channel) (e : RxEntry) : Channel :=
  if ch.rxq.length < Config.rxDepth then { ch with rxq := ch.rxq ++ [e] }
  else
    { ch with
      rxq := ch.rxq.drop 1 ++ [e]
      cnt := { ch.cnt with rxBlocksDropped := stick16 ch.cnt.rxBlocksDropped } }.latch .rxOverrun

/-- The first step of the block boundary work: the block of the 16 samples is closed and offered to the rx queue with
the pending set of the record; with an empty set it is discarded (R80, R82, R83). -/
def State.closeRxBlock (s : State) (c : Chan) (samples : List Sample) : State :=
  let ch := s.chan c
  let closed := { ch with asm := [], nextRx := ch.nextRx + 1 }
  if ch.recipients = [] then s.setChan c closed
  else
    let s := s.setChan c (closed.queueRx { seq := ch.nextRx, samples := samples, due := ch.recipients })
    match ch.rxq with
    | oldest :: _ => if ch.rxq.length < Config.rxDepth then s else s.raise c .rxOverrun (.rxOverrun oldest.seq)
    | [] => s

/-! ### The link transmitter (R86 to R89) -/

/-- Does an rx queue hold an entry due to a link? -/
def Channel.hasRxFor (ch : Channel) (l : Link) : Bool := ch.rxq.any fun e => e.due.contains l

/-- The cyclic order of the channels, from the one after the last served to the last served itself (R88). -/
def rxOrder (last : Chan) : List Chan := allChans.map fun i => last + 1 + i

/-- An rx queue after a link has started its oldest entry: its mark leaves, and an emptied entry is removed (R88). -/
def startRx (l : Link) : List RxEntry → List RxEntry
  | [] => []
  | e :: es =>
    if e.due.contains l then
      (if (e.due.filter (· != l)).isEmpty then es else { e with due := e.due.filter (· != l) } :: es)
    else e :: startRx l es

/-- The job of a job slot. -/
def LinkPort.jobAt (p : LinkPort) (k : Fin 4) : Option Job := p.jobs.find? fun j => j.place == k

/-- The port with the job of a slot changed. -/
def LinkPort.updJob (p : LinkPort) (k : Fin 4) (f : Job → Job) : LinkPort :=
  { p with jobs := p.jobs.map fun j => if j.place = k then f j else j }

/-- The port with a job slot emptied. -/
def LinkPort.freeJob (p : LinkPort) (k : Fin 4) : LinkPort := { p with jobs := p.jobs.filter fun j => j.place != k }

/-- The result a READY job holds. -/
def Job.result (j : Job) : EqResult :=
  match j.state with
  | .ready r => r
  | .sending r => r
  | .queued | .running => EqResult.bare .noEq

/-- Start an RX_BLOCK of channel `c` on link `l`: the fourth choice of R87, by R88. -/
def State.startRxBlock (s : State) (l : Link) (c : Chan) (e : RxEntry) : State :=
  (s.updChan c fun ch => { ch with rxq := startRx l ch.rxq }).updPort l fun p =>
    { p with tx := .sending (.rxBlock c e.seq e.samples), lastServed := c }

/-- The oldest entry of a channel that is due to a link (R88). -/
def Channel.oldestRxFor (ch : Channel) (l : Link) : Option RxEntry := ch.rxq.find? fun e => e.due.contains l

/-- The choice among the rx queues and, after them, the unsent WATCH_DATA (R87 steps 4 and 5). -/
def State.startRxOrWatch (s : State) (l : Link) : State :=
  match (rxOrder (s.port l).lastServed).find? fun c => (s.chan c).hasRxFor l with
  | some c =>
    match (s.chan c).oldestRxFor l with
    | some e => s.startRxBlock l c e
    | none => s
  | none =>
    match (s.port l).watchData with
    | some d => s.updPort l fun p => { p with tx := .sending (.watchData d), watchData := none }
    | none => s

/-- The choice of an IDLE transmitter (R87): the oldest response, the oldest notice, the oldest ready EQ_OUT, an
RX_BLOCK, the unsent WATCH_DATA. With nothing available the transmitter stays IDLE. -/
def State.transmit (s : State) (l : Link) : State :=
  match (s.port l).responses with
  | r :: rs => s.updPort l fun p => { p with tx := .sending (.response r), responses := rs }
  | [] =>
    match (s.port l).notices with
    | n :: ns => s.updPort l fun p => { p with tx := .sending (.notice n), notices := ns }
    | [] =>
      match (s.port l).ready with
      | k :: ks =>
        match (s.port l).jobAt k with
        | some j =>
          s.updPort l fun p =>
            { p.updJob k (fun j => { j with state := .sending j.result }) with
              tx := .sending (.eqOut j.tag j.chan j.result (some k)), ready := ks }
        | none => s.updPort l fun p => { p with ready := ks }
      | [] => s.startRxOrWatch l

/-- TRANSMIT_START (R86 to R88). The transmitter of a link that is DOWN sends nothing, and one that is not IDLE makes no
choice. -/
def execTransmitStart (l : Link) (s : State) : Host.Outcome State Fault Refusal :=
  if (s.port l).state ≠ .down ∧ (s.port l).tx = .idle then .next (s.transmit l) else .next s

/-- The lost count examined at the completion of a notice (R148). -/
def LinkPort.reportLost (p : LinkPort) : LinkPort :=
  if p.lost ≠ 0 ∧ p.notices.length < Config.noticeDepth then
    { p with notices := p.notices ++ [{ chan := 63, body := .noticesLost p.lost }], lost := 0 }
  else p

/-- What the completion of a message frees on its port (R89). -/
def LinkPort.completed (p : LinkPort) : OutMsg → LinkPort
  | .response r =>
    match r.entry with
    | some k => p.releaseEntry k
    | none => p
  | .notice _ => p.reportLost
  | .eqOut _ _ _ entry =>
    match entry with
    | some k => p.freeJob k
    | none => p
  | .rxBlock _ _ _ => p
  | .watchData _ => p

/-- MESSAGE_COMPLETION (R89). A transmitter that sends no message completes none. -/
def execMessageCompletion (l : Link) (s : State) : Host.Outcome State Fault Refusal :=
  match (s.port l).tx with
  | .sending m => .next (s.updPort l fun p => { p.completed m with tx := .idle })
  | .idle => .next s
  | .resyncPair => .next s

/-- RESYNC_PAIR_SENT: the two all-ones words of a link that became UP have gone, and the transmitter is free (R128). -/
def execResyncPairSent (l : Link) (s : State) : Host.Outcome State Fault Refusal :=
  if (s.port l).tx = .resyncPair then .next (s.updPort l fun p => { p with tx := .idle }) else .next s

end Sys2Proof.Machine
end

