-- ==== Sys2Proof/Machine/Channels.lean ====
section
/-! DEFINITION. Channel contexts (chapter 1): OPEN, the context clear, CLOSE and SET_NEAR. -/

namespace Sys2Proof.Machine

/-! ### OPEN (R6 to R8) -/

/-- The refusal of an OPEN of channel `c` by the checks of R7, in their order. -/
def openRefusal (s : State) (c : Chan) (m : CmdMsg) : Option Code :=
  if (s.chan c).state ≠ .free then some .notFree
  else
    match (if h : fieldAt (m.word 1) 0 8 < 64 then some (⟨fieldAt (m.word 1) 0 8, h⟩ : Slot) else none),
        loopbackOf (loopbackField (m.word 3)) with
    | some k, some _ =>
      if (s.slotMap[k.val]).isSome then some .slotTaken
      else if s.echoUsed + (openSizes m).cost > Config.echoBudget then some .noBudget
      else if (openSizes m).pageCount > s.freeList.length then some .noHistory
      else none
    | _, _ => some .badValue

/-- A filter of `n` taps, all 0, before and after the context clear (R9, R44). -/
def Filter.start (n : Nat) (g : Gear) : Filter := { Filter.free with taps := List.replicate n 0, gear := g, resume := g }

/-- The record of a channel whose OPEN has just been taken, its pages not yet granted (R8). -/
def openedRecord (l : Link) (m : CmdMsg) (slot : Slot) (lb : Loopback) : Channel :=
  { Channel.free with
    state := .opening, holder := some l, slot := some slot, loopback := lb, idle := sampleAt (m.word 3) 16,
    nn := (openSizes m).nn, nf := (openSizes m).nf, d := (openSizes m).d, charge := (openSizes m).cost,
    near := Filter.start (openSizes m).nn .off, far := Filter.start (openSizes m).nf .off }

/-- The state after an OPEN that passes every check is taken (R8). -/
def State.openTaken (s : State) (l : Link) (c : Chan) (m : CmdMsg) (slot : Slot) (lb : Loopback) : State :=
  let s := s.setChan c (openedRecord l m slot lb)
  let s := { s with slotMap := s.slotMap.set slot.val (some c), echoUsed := s.echoUsed + (openSizes m).cost }
  s.grantPages c (openSizes m).pageCount

/-- Take an OPEN (R2, R7, R8). -/
def takeOpen : Taking := fun l _ m s =>
  withChan m s fun c =>
    match openRefusal s c m with
    | some code => refuse s code
    | none =>
      match (if h : fieldAt (m.word 1) 0 8 < 64 then some (⟨fieldAt (m.word 1) 0 8, h⟩ : Slot) else none),
          loopbackOf (loopbackField (m.word 3)) with
      | some slot, some lb => (s.openTaken l c m slot lb, .started)
      | _, _ => refuse s .badValue

/-- OPEN (R6 to R8). -/
def execOpen (l : Link) (ch : ChanField) (tag : Tag) (p : OpenPayload) (s : State) :
    Host.Outcome State Fault Refusal :=
  .next (s.arrive l { kind := .openChannel, chan := ch, tag := tag, payload := p.words } takeOpen)

/-! ### The completion of the context clear (R9 to R12) -/

/-- The gear a filter starts in: TRAIN with taps, OFF without (R9, R61). -/
def startGear (n : Nat) : Gear := if n = 0 then .off else .train

/-- The start values of Table 9 for the channel's sizes. -/
def Channel.startValues (ch : Channel) : Channel :=
  { Channel.free with
    state := ch.state, holder := ch.holder, slot := ch.slot, loopback := ch.loopback, idle := ch.idle, nn := ch.nn,
    nf := ch.nf, d := ch.d, charge := ch.charge, pages := ch.pages, near := Filter.start ch.nn (startGear ch.nn),
    far := Filter.start ch.nf (startGear ch.nf) }

/-- The further words of the OK to OPEN: OPEN words 1 to 3 with the effective values, and the page count (R10). -/
def Channel.openBody (ch : Channel) : List Word :=
  [place (slotByte ch.slot) 0 8, sizesWord ch.nn ch.nf ch.d, lineWord ch.loopback ch.idle, place ch.pages.length 0 8]

/-- The storage with every page of a list zeroed (R9). -/
def Memory.zeroPages (m : Memory) (ps : List Page) : Memory := ps.foldl Memory.zeroPage m

/-- The completion of a channel's context clear (R9, R10, R11). A channel that is not OPENING, or whose clear a reset
has abandoned (R12), has no clear to complete. -/
def State.contextCleared (s : State) (c : Chan) : State :=
  let ch := (s.chan c).startValues
  if (s.chan c).state = .opening ∧ s.mark = false then
    let s := { s with pool := s.pool.zeroPages ch.pages }
    match ch.holder with
    | some l =>
      (s.setChan c { ch with state := .active }).answerOperation l .openChannel (fieldOfChan c) .ok ch.openBody
    | none =>
      let ch := { ch.orphanHold with state := .orphaned }
      (s.setChan c ch).notifyEach allLinks (ch.orphanedNotice c none)
  else s

/-- CONTEXT_CLEAR_COMPLETE (R9 to R12). -/
def execContextClearComplete (c : Chan) (s : State) : Host.Outcome State Fault Refusal := .next (s.contextCleared c)

/-! ### CLOSE (R13, R14) -/

/-- The refusal of a CLOSE by the state of the channel and the sender (R13). -/
def Channel.closeRefusal (ch : Channel) (l : Link) : Option Code :=
  match ch.state with
  | .free => some .notHolder
  | .opening => some .busy
  | .active | .handoverPending => if ch.holder = some l then none else some .notHolder
  | .orphaned => none

/-- Answer a pending retune's requester with a completion code, if it still is a link (R14, R73, R77). -/
def State.answerRetune (s : State) (c : Chan) (code : Code) (body : List Word) : State :=
  match (s.chan c).retune with
  | some r =>
    match r.requester with
    | some l => s.answerOperation l .setFar (fieldOfChan c) code body
    | none => s
  | none => s

/-- Tell the target of a standing offer that it is withdrawn (R14, R116). -/
def State.withdrawOffer (s : State) (c : Chan) (why : Reason) : State :=
  match (s.chan c).offer with
  | some o => s.notify o.target { chan := fieldOfChan c, body := .offerWithdrawn why }
  | none => s

/-- End one link's watch if it is on the channel, with a WATCH_ENDED (R14, R160). -/
def State.endWatch (c : Chan) (s : State) (l : Link) : State :=
  match (s.port l).watch with
  | some w =>
    if w.chan = c then
      (s.updPort l fun p => { p with watch := none, watchData := none }).notify l
        { chan := fieldOfChan c, body := .watchEnded }
    else s
  | none => s

/-- Mark a running job of the channel to be answered CLOSED (R108). -/
def markClosed (c : Chan) (e : Option RunJob) : Option RunJob :=
  e.map fun j => if j.chan = c then { j with closed := true } else j

/-- The EQ taps a channel charges to the EQ budget (R91). -/
def Channel.eqTaps (ch : Channel) : Nat :=
  match ch.eq with
  | some q => q.ne
  | none => 0

/-- Steps 4 to 10 of R14: jobs, EQ context, queues, pages, charge, slot, record. -/
def State.freeChannel (s : State) (c : Chan) : State :=
  let ch := s.chan c
  let s := s.finishQueued c .closed
  let s := { s with
    engine := markClosed c s.engine, eqUsed := s.eqUsed - ch.eqTaps, freeList := s.freeList ++ ch.pages,
    echoUsed := s.echoUsed - ch.charge,
    slotMap := match ch.slot with | some k => s.slotMap.set k.val none | none => s.slotMap }
  s.setChan c Channel.free

/-- The state after steps 1 to 10 of R14. -/
def State.closeTaken (s : State) (c : Chan) : State :=
  let s := s.answerRetune c .closed []
  let s := s.withdrawOffer c .closed
  let s := allLinks.foldl (State.endWatch c) s
  s.freeChannel c

/-- Take a CLOSE (R2, R13, R14). -/
def takeClose : Taking := fun l _ m s =>
  withChan m s fun c =>
    match (s.chan c).closeRefusal l with
    | some code => refuse s code
    | none => (s.closeTaken c, .done .ok [])

/-- CLOSE (R13, R14). -/
def execClose (l : Link) (ch : ChanField) (tag : Tag) (s : State) : Host.Outcome State Fault Refusal :=
  .next (s.arrive l { kind := .closeChannel, chan := ch, tag := tag, payload := [] } takeClose)

/-! ### SET_NEAR (R15) -/

/-- A list of taps cut or extended with 0 to a length (R15). -/
def resizeTaps (n : Nat) (ts : List Tap) : List Tap := ts.take n ++ List.replicate (n - ts.length) 0

/-- The charge of a channel for near count `nn`: with a pending retune, the larger of the two far counts (R15, R17). -/
def Channel.chargeFor (ch : Channel) (nn : Nat) : Nat :=
  match ch.retune with
  | some r => nn + max ch.nf r.nf
  | none => nn + ch.nf

/-- The NEAR gear after a resize from `old` to `new` taps (R15, R61). -/
def resizedGear (old new : Nat) (g : Gear) : Gear := if new = 0 then .off else if old = 0 then .train else g

/-- The record after a SET_NEAR to `nn` taps, its charge apart (R15). -/
def Channel.resizeNear (ch : Channel) (nn : Nat) : Channel :=
  { ch with
    nn := nn
    near := { ch.near with taps := resizeTaps nn ch.near.taps, gear := resizedGear ch.nn nn ch.near.gear } }

/-- Take a SET_NEAR (R2, R15). -/
def takeSetNear : Taking := fun l _ m s =>
  asHolder l m s fun c =>
    let nn := effectiveNear (fieldAt (m.word 1) 0 8)
    let charge := (s.chan c).chargeFor nn
    if s.echoUsed - (s.chan c).charge + charge > Config.echoBudget then refuse s .noBudget
    else
      ((s.recharge c charge).updChan c (·.resizeNear nn), .done .ok [place nn 0 8 ||| place charge 16 16])

/-- SET_NEAR (R15). -/
def execSetNear (l : Link) (ch : ChanField) (tag : Tag) (w1 : Word) (s : State) : Host.Outcome State Fault Refusal :=
  .next (s.arrive l { kind := .setNear, chan := ch, tag := tag, payload := [w1] } takeSetNear)

end Sys2Proof.Machine
end

