-- ==== Sys2Proof/Machine/Echo.lean ====
section
/-! DEFINITION. Echo estimation and tap update (chapter 3): the history write, the estimate, the error, the update, the
leak, the power estimates, and CLEAR_TAPS. All arithmetic is exact on integers and narrowed at the end. -/

namespace Sys2Proof.Machine

/-! ### The history (R45) -/

/-- The record after a sample is written: the write position and the filled length advance (R45). -/
def Channel.advanceHistory (ch : Channel) : Channel :=
  { ch with
    writePos := if ch.writePos + 1 ≥ ch.ringLength then 0 else ch.writePos + 1
    filled := if ch.filled ≥ ch.ringLength then ch.filled else ch.filled + 1 }

/-- Stage 2: the sample is written at the write position of the ring (R28, R45). -/
def State.writeHistory (s : State) (c : Chan) (x : Sample) : State :=
  let ch := s.chan c
  { s.setChan c ch.advanceHistory with pool := ringWrite s.pool ch.pages ch.writePos x }

/-! ### Estimate and error (R46 to R49) -/

/-- The sum of tap × sample over a filter's taps, `age k` being the sample that tap k reads (R47). -/
def dotTaps (age : Nat → Sample) : Nat → List Tap → Int
  | _, [] => 0
  | k, t :: ts => t.toInt * (age k).toInt + dotTaps age (k + 1) ts

/-- Does the gear contribute to the estimate (Table 19)? -/
def Gear.contributes : Gear → Bool
  | .train | .track | .hold => true
  | .off => false

/-- Is the gear adapting: TRAIN or TRACK (Table 19)? -/
def Gear.adapts : Gear → Bool
  | .train | .track => true
  | .off | .hold => false

/-- A filter's part of the accumulator (R47). -/
def Filter.accumulate (f : Filter) (age : Nat → Sample) : Int := if f.gear.contributes then dotTaps age 0 f.taps else 0

/-- The sample that near tap `k` reads (R46). -/
def Channel.nearAge (ch : Channel) (m : Memory) (k : Nat) : Sample := ch.sampleOfAge m k

/-- The sample that far tap `k` reads (R46). -/
def Channel.farAge (ch : Channel) (m : Memory) (k : Nat) : Sample := ch.sampleOfAge m (ch.d + k)

/-- The accumulator (R47). -/
def Channel.accumulator (ch : Channel) (m : Memory) : Int :=
  ch.near.accumulate (ch.nearAge m) + ch.far.accumulate (ch.farAge m)

/-- The estimate s (R48). -/
def Channel.estimate (ch : Channel) (m : Memory) : Int := roundShift (ch.accumulator m) 22

/-- The exact difference y − s (R49). -/
def Channel.difference (ch : Channel) (m : Memory) (y : Sample) : Int := y.toInt - ch.estimate m

/-- The error sample e, saturated (R49). -/
def Channel.error (ch : Channel) (m : Memory) (y : Sample) : Int := saturateSample (ch.difference m y)

/-! ### Tap update (R50 to R52) -/

/-- The exact new value of a tap before its clamp: tap + Δ (R50). -/
def updateSum (e : Int) (m : Nat) (x : Sample) (t : Tap) : Int := t.toInt + roundShift (e * x.toInt) m

/-- The taps of an adapting filter after the update, each clamped by itself (R50, R51). -/
def updateTaps (e : Int) (m : Nat) (age : Nat → Sample) : Nat → List Tap → List Tap
  | _, [] => []
  | k, t :: ts => BitVec.ofInt 24 (clampTap (updateSum e m (age k) t)) :: updateTaps e m age (k + 1) ts

/-- Was any tap of an adapting filter clamped in the update (R51)? -/
def clampsTaps (e : Int) (m : Nat) (age : Nat → Sample) : Nat → List Tap → Bool
  | _, [] => false
  | k, t :: ts =>
    decide (clampTap (updateSum e m (age k) t) ≠ updateSum e m (age k) t) || clampsTaps e m age (k + 1) ts

/-- The step exponent of a filter in its gear (R50). -/
def Filter.step (f : Filter) : Nat := if f.gear = .train then f.trainM else f.trackM

/-- A filter after the tap update of one frame operation (R50). -/
def Filter.adapt (f : Filter) (e : Int) (age : Nat → Sample) : Filter :=
  if f.gear.adapts then { f with taps := updateTaps e f.step age 0 f.taps } else f

/-- Did the tap update clamp a tap of this filter (R51)? -/
def Filter.clamps (f : Filter) (e : Int) (age : Nat → Sample) : Bool := f.gear.adapts && clampsTaps e f.step age 0 f.taps

/-- The record with a saturated error counted and latched (R49). -/
def Channel.noteClip (ch : Channel) (clipped : Bool) : Channel :=
  if clipped then { ch with cnt := { ch.cnt with clippedSamples := wrap32 ch.cnt.clippedSamples } }.latch .clipped
  else ch

/-- The record with a clamped update counted and latched (R51). -/
def Channel.noteClamp (ch : Channel) (clamped : Bool) : Channel :=
  if clamped then { ch with cnt := { ch.cnt with clampSamples := stick16 ch.cnt.clampSamples } }.latch .tapClamped
  else ch

/-- Stage 4: the record after the estimate, the error and the tap update (R47 to R52). The storage is the one stage 2
left. -/
def Channel.echo (ch : Channel) (m : Memory) (y : Sample) : Channel :=
  let e := ch.error m y
  let clipped := decide (ch.difference m y ≠ e)
  let clamped := ch.near.clamps e (ch.nearAge m) || ch.far.clamps e (ch.farAge m)
  (({ ch with near := ch.near.adapt e (ch.nearAge m), far := ch.far.adapt e (ch.farAge m) }.noteClip clipped).noteClamp
    clamped)

/-! ### Power estimates (R54, R55) -/

/-- One step of a running power estimate (R54). -/
def powerStep (p : BitVec 32) (v : Int) : BitVec 32 :=
  BitVec.ofNat 32 (p.toNat - p.toNat / 64 + (v * v / 64).toNat)

/-- Stage 5 (R54). -/
def Channel.power (ch : Channel) (y : Sample) (e : Int) : Channel :=
  { ch with py := powerStep ch.py y.toInt, pe := powerStep ch.pe e }

/-! ### Leakage (R53) -/

/-- A tap after the leak with exponent `lk` (R53). -/
def leakTap (lk : Nat) (t : Tap) : Tap := BitVec.ofInt 24 (t.toInt - t.toInt.tdiv (2 ^ lk))

/-- A filter after the leak of a block boundary (R53). -/
def Filter.leaked (f : Filter) : Filter :=
  if f.gear.adapts ∧ 0 < f.leak then { f with taps := f.taps.map (leakTap f.leak) } else f

/-- The second step of the block boundary work (R30, R53). -/
def Channel.leakStep (ch : Channel) : Channel := { ch with near := ch.near.leaked, far := ch.far.leaked }

/-! ### CLEAR_TAPS (R56, R57) -/

/-- A filter with every tap 0. -/
def Filter.zeroTaps (f : Filter) : Filter := { f with taps := List.replicate f.taps.length 0 }

/-- The unity center tap with every other tap 0 (R92). -/
def unityTaps (ne : Nat) : List (Tap × Tap) :=
  (List.range ne).map fun k => if k = ne / 2 then (4194304, 0) else (0, 0)

/-- The record after a CLEAR_TAPS of a filter set (R57). -/
def Channel.clearTaps (ch : Channel) (set : Nat) : Channel :=
  { ch with
    near := if hasBit set 0 then ch.near.zeroTaps else ch.near
    far := if hasBit set 1 then ch.far.zeroTaps else ch.far
    eq := if hasBit set 2 then ch.eq.map fun q => { q with taps := unityTaps q.ne } else ch.eq
    convRun := 0
    divRun := 0 }

/-- CLEAR_TAPS once it is not held: the checks of R56 and the effect of R57. -/
def clearTapsNow (l : Link) (m : CmdMsg) (s : State) : State × Reply :=
  asHolder l m s fun c =>
    let set := filterSet (m.word 1)
    if set = 0 ∨ 8 ≤ set then refuse s .badValue
    else if hasBit set 2 && (s.chan c).eq.isNone then refuse s .badValue
    else (s.updChan c (·.clearTaps set), .done .ok [place set 0 8])

/-- Take a CLEAR_TAPS: held while a job of the channel runs if the set names EQ (R56, R107). -/
def takeClearTaps : Taking := fun l _ m s =>
  withChan m s fun c =>
    if hasBit (filterSet (m.word 1)) 2 && s.jobRuns c then (s, .held) else clearTapsNow l m s

/-- CLEAR_TAPS (R56, R57). -/
def execClearTaps (l : Link) (ch : ChanField) (tag : Tag) (w1 : Word) (s : State) : Host.Outcome State Fault Refusal :=
  .next (s.arrive l { kind := .clearTaps, chan := ch, tag := tag, payload := [w1] } takeClearTaps)

end Sys2Proof.Machine
end

