-- ==== Sys2Proof/Machine/Gears.lean ====
section
/-! DEFINITION. Gears, convergence and bulk delay (chapter 4): SET_ADAPT, the evaluation at a block boundary, and the
SET_FAR retune with its application. -/

namespace Sys2Proof.Machine

/-! ### SET_ADAPT (R62, R63) -/

/-- Is group `i` of a SET_ADAPT present (Table 48)? -/
def adaptHas (m : CmdMsg) (i : Nat) : Bool := hasBit (m.word 1).toNat i

/-- Must a SET_ADAPT be refused with BAD_VALUE (R62 step 2)? -/
def adaptBad (m : CmdMsg) : Bool :=
  !(adaptHas m 0 || adaptHas m 1 || adaptHas m 2)
    || (adaptHas m 0 && (gearOf (fieldAt (m.word 2) 0 3)).isNone)
    || (adaptHas m 1 && (gearOf (fieldAt (m.word 3) 0 3)).isNone)
    || (adaptHas m 2 && decide (4 ≤ fieldAt (m.word 1) 4 4))

/-- A filter with the settings of a group word, each made effective; a filter without taps is OFF (R63). -/
def Filter.adaptTo (f : Filter) (w : Word) : Filter :=
  { f with
    gear := if f.taps.isEmpty then .off else (gearOf (fieldAt w 0 3)).getD .off
    trainM := effectiveStep (fieldAt w 8 8)
    trackM := effectiveStep (fieldAt w 16 8)
    leak := effectiveLeak (fieldAt w 24 8) }

/-- The record with the channel group of a SET_ADAPT, each value made effective (R63). -/
def Channel.superviseTo (ch : Channel) (m : CmdMsg) : Channel :=
  { ch with
    autoNear := hasBit (m.word 1).toNat 4
    autoFar := hasBit (m.word 1).toNat 5
    c := clampNat 1 15 (fieldAt (m.word 1) 8 8)
    convBlocks := clampNat 1 255 (fieldAt (m.word 1) 16 8)
    divBlocks := clampNat 1 255 (fieldAt (m.word 1) 24 8)
    floor := min Config.floorMax (m.word 4).toNat }

/-- The record after a SET_ADAPT: every present group replaces the old settings (R63). -/
def Channel.adaptTo (ch : Channel) (m : CmdMsg) : Channel :=
  let ch := if adaptHas m 0 then { ch with near := ch.near.adaptTo (m.word 2) } else ch
  let ch := if adaptHas m 1 then { ch with far := ch.far.adaptTo (m.word 3) } else ch
  if adaptHas m 2 then ch.superviseTo m else ch

/-- A group word with a filter's settings (Table 48). -/
def Filter.groupWord (f : Filter) : Word :=
  place f.gear.code 0 3 ||| place f.trainM 8 8 ||| place f.trackM 16 8 ||| place f.leak 24 8

/-- The further words of the OK to SET_ADAPT: all three groups, all presence bits set (section 11-3). -/
def Channel.adaptBody (ch : Channel) : List Word :=
  [place 7 0 3 ||| placeBit ch.autoNear 4 ||| placeBit ch.autoFar 5 ||| place ch.c 8 8 ||| place ch.convBlocks 16 8
     ||| place ch.divBlocks 24 8,
   ch.near.groupWord, ch.far.groupWord, BitVec.ofNat 32 ch.floor]

/-- Take a SET_ADAPT (R62, R63). -/
def takeSetAdapt : Taking := fun l _ m s =>
  asHolder l m s fun c =>
    if adaptBad m then refuse s .badValue
    else (s.updChan c (·.adaptTo m), .done .ok ((s.chan c).adaptTo m).adaptBody)

/-- SET_ADAPT (R62, R63). -/
def execSetAdapt (l : Link) (ch : ChanField) (tag : Tag) (w1 w2 w3 w4 : Word) (s : State) :
    Host.Outcome State Fault Refusal :=
  .next (s.arrive l { kind := .setAdapt, chan := ch, tag := tag, payload := [w1, w2, w3, w4] } takeSetAdapt)

/-! ### Convergence and divergence (R64 to R67) -/

/-- Is a filter with taps in TRAIN (R64)? -/
def Filter.training (f : Filter) : Bool := !f.taps.isEmpty && f.gear == .train

/-- Is a filter with taps in TRAIN or TRACK (R66)? -/
def Filter.adapting (f : Filter) : Bool := !f.taps.isEmpty && f.gear.adapts

/-- Does the boundary evaluate convergence (R64)? -/
def Channel.evaluatesConvergence (ch : Channel) : Bool := (ch.autoNear && ch.near.training) || (ch.autoFar && ch.far.training)

/-- Does the convergence condition hold (R64)? -/
def Channel.convergenceHolds (ch : Channel) : Bool :=
  decide (ch.floor ≤ ch.py.toNat) && decide (ch.pe.toNat * 2 ^ ch.c ≤ ch.py.toNat)

/-- conv_run after this boundary's evaluation, before a completion (R64). -/
def Channel.nextConvRun (ch : Channel) : Nat :=
  if ch.evaluatesConvergence && ch.convergenceHolds then ch.convRun + 1 else 0

/-- Does the convergence complete at this boundary (R65)? -/
def Channel.converges (ch : Channel) : Bool :=
  ch.evaluatesConvergence && ch.convergenceHolds && decide (ch.convBlocks ≤ ch.nextConvRun)

/-- Does convergence move the near filter to TRACK (R65)? -/
def Channel.movesNear (ch : Channel) : Bool := ch.autoNear && ch.near.gear == .train

/-- Does convergence move the far filter to TRACK (R65)? -/
def Channel.movesFar (ch : Channel) : Bool := ch.autoFar && ch.far.gear == .train

/-- The record after the convergence step (R64, R65). -/
def Channel.convergeStep (ch : Channel) : Channel :=
  if ch.converges then
    { ch with
      near := if ch.movesNear then { ch.near with gear := .track } else ch.near
      far := if ch.movesFar then { ch.far with gear := .track } else ch.far
      convRun := 0 }.latch .converged
  else { ch with convRun := ch.nextConvRun }

/-- The convergence step of a block boundary with its notice (R65). -/
def State.convergeStep (s : State) (c : Chan) : State :=
  let ch := s.chan c
  let s := s.setChan c ch.convergeStep
  if ch.converges then s.raise c .converged (.converged ch.movesNear ch.movesFar) else s

/-- Does the boundary evaluate divergence (R66)? -/
def Channel.evaluatesDivergence (ch : Channel) : Bool := ch.near.adapting || ch.far.adapting

/-- Does the divergence condition hold (R66)? -/
def Channel.divergenceHolds (ch : Channel) : Bool :=
  decide (ch.floor ≤ ch.py.toNat) && decide (2 * ch.py.toNat < ch.pe.toNat)

/-- div_run after this boundary's evaluation, before a completion (R66). -/
def Channel.nextDivRun (ch : Channel) : Nat := if ch.evaluatesDivergence && ch.divergenceHolds then ch.divRun + 1 else 0

/-- Does the divergence complete at this boundary (R67)? -/
def Channel.diverges (ch : Channel) : Bool :=
  ch.evaluatesDivergence && ch.divergenceHolds && decide (ch.divBlocks ≤ ch.nextDivRun)

/-- A filter retrained by a divergence: taps 0, gear TRAIN; a filter in HOLD or OFF is kept (R67). -/
def Filter.retrain (f : Filter) : Filter := if f.gear.adapts then { f.zeroTaps with gear := .train } else f

/-- The record after the divergence step (R66, R67). -/
def Channel.divergeStep (ch : Channel) : Channel :=
  if ch.diverges then
    { ch with
      near := ch.near.retrain, far := ch.far.retrain, convRun := 0, divRun := 0
      cnt := { ch.cnt with divergences := stick16 ch.cnt.divergences } }.latch .diverged
  else { ch with divRun := ch.nextDivRun }

/-- The divergence step of a block boundary with its notice (R67). -/
def State.divergeStep (s : State) (c : Chan) : State :=
  let ch := s.chan c
  let s := s.setChan c ch.divergeStep
  if ch.diverges then s.raise c .diverged (.diverged ch.near.gear.adapts ch.far.gear.adapts) else s

/-! ### SET_FAR (R71 to R73) -/

/-- The effective far sizes of a SET_FAR on a channel, with the channel's near count (R71). -/
def Channel.farRequest (ch : Channel) (m : CmdMsg) : Sizes :=
  { effectiveSizes 0 (fieldAt (m.word 1) 0 8) (fieldAt (m.word 1) 16 16) with nn := ch.nn }

/-- The charge while a retune to `z` is pending: the larger of the applied and the new cost (R17, R73). -/
def Channel.retuneCharge (ch : Channel) (z : Sizes) : Nat := max (ch.nn + ch.nf) z.cost

/-- k_p of R72: the pages reserved by the pending retune. -/
def Channel.reservedPages (ch : Channel) : Nat :=
  match ch.retune with
  | some r => r.reserved
  | none => 0

/-- x of R72: the extra pages a retune to `z` needs. -/
def Channel.extraPages (ch : Channel) (z : Sizes) : Nat := z.pageCount - ch.servingPages

/-- The refusal of a SET_FAR by the shared resources (R72). -/
def retuneRefusal (s : State) (c : Chan) (z : Sizes) : Option Code :=
  if s.echoUsed - (s.chan c).charge + (s.chan c).retuneCharge z > Config.echoBudget then some .noBudget
  else if (s.chan c).extraPages z > s.freeList.length + (s.chan c).reservedPages then some .noHistory
  else none

/-- Step 1 of R73: a pending retune is superseded, its requester answered, its pages and charge returned. -/
def State.supersede (s : State) (c : Chan) : State :=
  match (s.chan c).retune with
  | some r =>
    let s := s.answerRetune c .superseded []
    let s := s.releasePages c r.reserved
    let s := s.recharge c ((s.chan c).nn + (s.chan c).nf)
    s.updChan c fun ch => { ch with retune := none }
  | none => s

/-- The acceptance of a SET_FAR (R73). -/
def State.acceptRetune (s : State) (l : Link) (c : Chan) (tag : Tag) (z : Sizes) : State :=
  let x := (s.chan c).extraPages z
  let s := s.supersede c
  let s := s.recharge c ((s.chan c).retuneCharge z)
  let s := s.grantPages c x
  s.updChan c fun ch => { ch with retune := some { nf := z.nf, d := z.d, requester := some l, tag := tag, reserved := x } }

/-- Take a SET_FAR (R71 to R73). -/
def takeSetFar : Taking := fun l _ m s =>
  asHolder l m s fun c =>
    match retuneRefusal s c ((s.chan c).farRequest m) with
    | some code => refuse s code
    | none => (s.acceptRetune l c m.tag ((s.chan c).farRequest m), .started)

/-- SET_FAR (R71 to R74). -/
def execSetFar (l : Link) (ch : ChanField) (tag : Tag) (w1 : Word) (s : State) : Host.Outcome State Fault Refusal :=
  .next (s.arrive l { kind := .setFar, chan := ch, tag := tag, payload := [w1] } takeSetFar)

/-! ### The application of a retune (R75 to R77) -/

/-- New far tap `k` after a shift from bulk delay `d` to `d'`: old tap k + d' − d if there is one, else 0 (R75). -/
def shiftedTap (d d' : Nat) (ts : List Tap) (k : Nat) : Tap := if d ≤ k + d' then ts.getD (k + d' - d) 0 else 0

/-- The far taps after a retune (R75). -/
def shiftTaps (d d' nf' : Nat) (ts : List Tap) : List Tap := (List.range nf').map (shiftedTap d d' ts)

/-- The far filter after a retune: taps shifted; the gear by the table of R75, an ORPHANED channel's in its resume
gear. -/
def Channel.retunedFar (ch : Channel) (r : Retune) : Filter :=
  let taps := shiftTaps ch.d r.d r.nf ch.far.taps
  if ch.state = .orphaned then
    let resume := resizedGear ch.nf r.nf ch.far.resume
    { ch.far with taps := taps, resume := resume, gear := resume.held }
  else { ch.far with taps := taps, gear := resizedGear ch.nf r.nf ch.far.gear }

/-- The samples that a re-formed ring of `n` samples keeps, oldest first (R76). -/
def Channel.keptSamples (ch : Channel) (m : Memory) (n : Nat) : List Sample :=
  (List.range n).map fun p => ch.sampleOfAge m (n - 1 - p)

/-- P' of a pending retune (R71). -/
def Channel.retunePages (ch : Channel) (r : Retune) : Nat := ({ nn := ch.nn, nf := r.nf, d := r.d } : Sizes).pageCount

/-- The state after the taps, sizes, gear and ring of a retune are in place (R75, R76). -/
def State.reformRing (s : State) (c : Chan) (r : Retune) : State :=
  let ch := s.chan c
  let ring := Config.pageSize * ch.retunePages r
  let kept := min ch.filled ring
  { s.setChan c
      { ch with
        far := ch.retunedFar r, nf := r.nf, d := r.d, writePos := kept % ring, filled := kept } with
    pool := ringWriteFrom s.pool ch.pages 0 (ch.keptSamples s.pool kept) }

/-- The fourth step of the block boundary work: a pending retune is applied, excess pages released, the charge set, and
the requester answered (R75 to R77). -/
def State.applyRetune (s : State) (c : Chan) : State :=
  match (s.chan c).retune with
  | some r =>
    let pages := (s.chan c).retunePages r
    let s := s.reformRing c r
    let s := s.releasePages c ((s.chan c).pages.length - pages)
    let s := s.recharge c ((s.chan c).nn + r.nf)
    let s := s.answerRetune c .ok
      [place r.nf 0 8 ||| place r.d 16 16, place pages 0 8 ||| place (s.chan c).charge 16 16]
    s.updChan c fun ch => { ch with retune := none }
  | none => s

end Sys2Proof.Machine
end

