-- ==== Sys2Proof/Machine/Inspection.lean ====
section
/-! DEFINITION. Context inspection (chapter 10): PEEK, POKE, WATCH, and the watch sample of a block boundary. -/

namespace Sys2Proof.Machine

/-- Take a PEEK (R155): BUSY while OPENING, BAD_VALUE for a bad length or index, else the burst as one snapshot. -/
def takePeek : Taking := fun _ _ m s =>
  withChan m s fun c =>
    let start := fieldAt (m.word 1) 0 16
    let len := fieldAt (m.word 1) 16 8
    if (s.chan c).state = .opening then refuse s .busy
    else if ¬ (len = 1 ∨ len = 2 ∨ len = 4 ∨ len = 8) ∨ 303 < start then refuse s .badValue
    else
      (s, .done .ok
        ((place start 0 16 ||| place len 16 8) :: (burstIndexes start len).map (s.chan c).contextWord))

/-- PEEK (R155). -/
def execPeek (l : Link) (ch : ChanField) (tag : Tag) (w1 : Word) (s : State) : Host.Outcome State Fault Refusal :=
  .next (s.arrive l { kind := .peek, chan := ch, tag := tag, payload := [w1] } takePeek)

/-! ### POKE (R156, R157) -/

/-- The refusal of a POKE by its index (R156 steps 4 to 6). -/
def Channel.pokeRefusal (ch : Channel) (i : Nat) : Option Code :=
  if 303 < i then some .badValue
  else if i < 32 ∨ 288 ≤ i then some .readOnly
  else if i < 96 then (if i - 32 < ch.nn then none else some .badValue)
  else if i < 224 then (if i - 96 < ch.nf then none else some .badValue)
  else
    match ch.eq with
    | some q => if i - 224 < 2 * q.ne then none else some .badValue
    | none => some .badValue

/-- An EQ tap with one component set: the real part for an even word, the imaginary part for an odd one. -/
def pokePair (i : Nat) (v : Tap) (t : Tap × Tap) : Tap × Tap := if i % 2 = 0 then (v, t.2) else (t.1, v)

/-- The record with the tap of a context word set (R157). -/
def Channel.pokeTap (ch : Channel) (i : Nat) (v : Tap) : Channel :=
  if i < 96 then { ch with near := { ch.near with taps := ch.near.taps.set (i - 32) v } }
  else if i < 224 then { ch with far := { ch.far with taps := ch.far.taps.set (i - 96) v } }
  else { ch with eq := ch.eq.map fun q => { q with taps := q.taps.modify ((i - 224) / 2) (pokePair i v) } }

/-- The value a POKE writes: its signed 32-bit value, clamped (R157). -/
def pokeValue (m : CmdMsg) : Tap := BitVec.ofInt 24 (clampTap (m.word 2).toInt)

/-- POKE once it is not held: steps 3 to 6 of R156 and the effect of R157. -/
def pokeNow (l : Link) (m : CmdMsg) (s : State) : State × Reply :=
  asHolder l m s fun c =>
    let i := fieldAt (m.word 1) 0 16
    match (s.chan c).pokeRefusal i with
    | some code => refuse s code
    | none =>
      (s.updChan c (·.pokeTap i (pokeValue m)),
       .done .ok [place i 0 16, (s.chan c).contextWord i, tapWord (pokeValue m)])

/-- Take a POKE: held while a job of the channel runs if its index is an EQ tap word (R107, R156). -/
def takePoke : Taking := fun l _ m s =>
  withChan m s fun c =>
    if decide (224 ≤ fieldAt (m.word 1) 0 16 ∧ fieldAt (m.word 1) 0 16 ≤ 287) && s.jobRuns c then (s, .held)
    else pokeNow l m s

/-- POKE (R156, R157). -/
def execPoke (l : Link) (ch : ChanField) (tag : Tag) (w1 w2 : Word) (s : State) : Host.Outcome State Fault Refusal :=
  .next (s.arrive l { kind := .poke, chan := ch, tag := tag, payload := [w1, w2] } takePoke)

/-! ### WATCH (R158 to R160) -/

/-- The watch record of a WATCH; interval 0 is none (R158). -/
def watchRecord (c : Chan) (index interval : Nat) : Option Watch :=
  if interval = 0 then none else some { chan := c, index := index, interval := interval, countdown := interval }

/-- Take a WATCH (R158). -/
def takeWatch : Taking := fun l _ m s =>
  withChan m s fun c =>
    let index := fieldAt (m.word 1) 0 16
    let interval := clampNat 0 255 (fieldAt (m.word 1) 16 16)
    if (s.chan c).state = .free then refuse s .badChannel
    else if (s.chan c).state = .opening then refuse s .busy
    else if 303 < index then refuse s .badValue
    else
      (s.updPort l fun p => { p with watch := watchRecord c index interval, watchData := none },
       .done .ok [place index 0 16 ||| place interval 16 16])

/-- WATCH (R158). -/
def execWatch (l : Link) (ch : ChanField) (tag : Tag) (w1 : Word) (s : State) : Host.Outcome State Fault Refusal :=
  .next (s.arrive l { kind := .watch, chan := ch, tag := tag, payload := [w1] } takeWatch)

/-- The WATCH_DATA of a watch at a block boundary whose closed block has sequence `seq` (R159). -/
def Channel.watchSample (ch : Channel) (w : Watch) (seq : Seq) : WatchData :=
  { chan := w.chan, index := w.index, rxSeq := seq, word := ch.contextWord w.index, py := ch.py, pe := ch.pe,
    gears := ch.gearsWord }

/-- One port at the fifth step of a channel's block boundary work (R159). -/
def LinkPort.watchStep (p : LinkPort) (c : Chan) (ch : Channel) (seq : Seq) : LinkPort :=
  match p.watch with
  | some w =>
    if w.chan = c then
      if w.countdown ≤ 1 then
        { p with watch := some { w with countdown := w.interval }, watchData := some (ch.watchSample w seq) }
      else { p with watch := some { w with countdown := w.countdown - 1 } }
    else p
  | none => p

/-- The fifth step of the block boundary work, on every link (R30, R159). -/
def State.watchStep (s : State) (c : Chan) (seq : Seq) : State := s.updPorts (·.watchStep c (s.chan c) seq)

end Sys2Proof.Machine
end

