-- ==== Sys2Proof/Machine/Playout.lean ====
section
/-! DEFINITION. The transmit playout (chapter 2): the window, TX_BLOCK, the playout sample of a frame operation,
SET_PLAYOUT and SET_LINE. -/

namespace Sys2Proof.Machine

/-- A window moved forward by `n` positions: the blocks below are discarded, empty positions join above. -/
def shiftWindow (n : Nat) (w : Vector (Option Block) 16) : Vector (Option Block) 16 :=
  ⟨⟨(w.toList.drop n ++ List.replicate 16 none).take 16⟩, by simp⟩

/-- The lowest occupied offset of a window, or 16 for an empty one. -/
def lowestOffset (w : Vector (Option Block) 16) : Nat := w.toList.findIdx Option.isSome

/-! ### Watermark edges (R40) -/

/-- Evaluate the low-watermark edges between the depth before an event, `d0`, and the depth after it (R40). -/
def State.watermark (s : State) (c : Chan) (d0 : Nat) : State :=
  let w := (s.chan c).play.lowWater
  let d1 := (s.chan c).play.depth
  if w < d0 ∧ d1 ≤ w then s.raise c .playoutLow (.playoutLow d1 w)
  else if d0 ≤ w ∧ w < d1 then s.raise c .playoutRecovered (.playoutRecovered d1 w)
  else s

/-! ### TX_BLOCK (R33 to R36) -/

/-- The offset of a sequence number from E (R34). -/
def Playout.offset (p : Playout) (s : Seq) : Nat := (s - p.e).toNat

/-- A block stored at a position of the window (R34). -/
def Playout.store (p : Playout) (o : Nat) (b : Block) : Playout :=
  if h : o < 16 then { p with window := p.window.set o (some b) } else p

/-- The window moved forward so that sequence `s` stands at position 15, and the block stored there (R35). -/
def Playout.jump (p : Playout) (s : Seq) (b : Block) : Playout :=
  { p with window := shiftWindow (p.offset s - 15) p.window, e := s - 15 }.store 15 b

/-- The transition of R36: a PRIMING playout whose depth meets the start depth becomes PLAYING, and E advances to the
lowest occupied position. -/
def Playout.startCheck (p : Playout) : Playout :=
  if p.state = .priming ∧ p.startDepth ≤ p.depth then
    { p with
      state := .playing, window := shiftWindow (lowestOffset p.window) p.window
      e := p.e + BitVec.ofNat 16 (lowestOffset p.window) }
  else p

/-- A channel after an accepted block: stored, duplicate, jump or late, with its counters and flags (R34, R35, R36). -/
def Channel.takeBlock (ch : Channel) (s : Seq) (b : Block) : Channel :=
  let o := ch.play.offset s
  if h : o < 16 then
    if (ch.play.window[o]).isSome then
      { ch with cnt := { ch.cnt with blocksDuplicate := stick16 ch.cnt.blocksDuplicate } }.latch .late
    else { ch with play := (ch.play.store o b).startCheck }
  else if o < 32768 then
    { ch with
      play := (ch.play.jump s b).startCheck
      cnt := { ch.cnt with jumps := stick16 ch.cnt.jumps } }.latch .jump
  else { ch with cnt := { ch.cnt with blocksLate := stick16 ch.cnt.blocksLate } }.latch .late

/-- Is a TX_BLOCK from this link accepted by the channel (R33)? -/
def Channel.acceptsBlock (ch : Channel) (l : Link) : Bool :=
  match ch.state with
  | .active => ch.holder == some l
  | .handoverPending => ch.holder == some l || (ch.offer.map Offer.target) == some l
  | .free | .opening | .orphaned => false

/-- Count a foreign block of a link (R33). -/
def State.foreignBlock (s : State) (l : Link) : State :=
  s.updPort l fun p => { p with foreignBlocks := stick16 p.foreignBlocks }

/-- The Playout Unit's treatment of a TX_BLOCK, no reset being in progress (R33, R34, R40). -/
def State.transmitBlock (s : State) (l : Link) (ch : ChanField) (seq : Seq) (b : Block) : State :=
  match chanOf ch with
  | some c =>
    if (s.chan c).acceptsBlock l then
      (s.updChan c (·.takeBlock seq b)).watermark c (s.chan c).play.depth
    else s.foreignBlock l
  | none => s.foreignBlock l

/-- TX_BLOCK (R33 to R36, R40, R129, R141). -/
def execTxBlock (l : Link) (ch : ChanField) (w1 : Word) (samples : Vector Word 8) (s : State) :
    Host.Outcome State Fault Refusal :=
  if s.listens l then
    if s.mark then .next (s.updPort l LinkPort.heard)
    else .next ((s.updPort l LinkPort.heard).transmitBlock l ch (sampleAt w1 0) (blockOfWords samples))
  else .next s

/-! ### The playout sample (R37 to R39) -/

/-- The samples of a current block at a read position. -/
def blockSample (b : Block) (i : Nat) : Sample := b.toList.getD i 0

/-- The fill block of R38. -/
def Playout.fillBlock (p : Playout) : Block :=
  match p.fill, p.lastWasFill, p.lastPlayed with
  | .repeatLast, false, some b => b
  | _, _, _ => Vector.replicate 16 0

/-- The playout after a real block start (R37). -/
def Playout.startBlock (p : Playout) (b : Block) : Playout :=
  { p with
    window := shiftWindow 1 p.window, e := p.e + 1, current := some b, readPos := 1, lastPlayed := some b,
    lastWasFill := false }

/-- The playout after a missing block is filled (R38). -/
def Playout.startFill (p : Playout) : Playout :=
  { p with
    window := shiftWindow 1 p.window, e := p.e + 1, current := some p.fillBlock, readPos := 1, lastWasFill := true }

/-- The playout after an underrun (R39). The manual states no read position for a playout without a current block
after an underrun; it is the free value `r`, within the 0 to 16 of R32 (assumption 6). -/
def Playout.underrun (p : Playout) (r : Fin 17) : Playout :=
  { p with state := .priming, current := none, readPos := r.val }

/-- A block start of a PLAYING channel with no samples left: underrun, real start or fill (R37 to R40), and the playout
sample. -/
def State.blockStart (s : State) (c : Chan) : State × Sample :=
  let ch := s.chan c
  let p := ch.play
  if p.depth = 0 then
    let r := Config.readPosAfterUnderrun s.freeCount
    let s := { s with freeCount := s.freeCount + 1 }
    let s := s.setChan c
      ({ ch with
         play := p.underrun r, cnt := { ch.cnt with underruns := stick16 ch.cnt.underruns } }.latch .underrun)
    (s.raise c .underrun (.underrun p.e), ch.idle)
  else
    match p.window[0] with
    | some b =>
      let s := s.setChan c
        { ch with play := p.startBlock b, cnt := { ch.cnt with blocksPlayed := wrap32 ch.cnt.blocksPlayed } }
      (s.watermark c p.depth, blockSample b 0)
    | none =>
      let s := s.setChan c
        ({ ch with
           play := p.startFill, cnt := { ch.cnt with blocksMissing := stick16 ch.cnt.blocksMissing } }.latch .missing)
      (s.watermark c p.depth, blockSample p.fillBlock 0)

/-- Stage 1: the playout sample of a frame operation (R37). -/
def State.playoutSample (s : State) (c : Chan) : State × Sample :=
  let ch := s.chan c
  match ch.play.state, ch.play.current with
  | .priming, _ => (s, ch.idle)
  | .playing, some b =>
    if ch.play.readPos < 16 then
      (s.setChan c { ch with play := { ch.play with readPos := ch.play.readPos + 1 } }, blockSample b ch.play.readPos)
    else s.blockStart c
  | .playing, none => s.blockStart c

/-! ### SET_PLAYOUT and SET_LINE (R42, R43) -/

/-- Take a SET_PLAYOUT (R42). -/
def takeSetPlayout : Taking := fun l _ m s =>
  asHolder l m s fun c =>
    match fillOf (fieldAt (m.word 1) 16 2) with
    | none => refuse s .badValue
    | some fill =>
      let depth := clampNat 1 12 (fieldAt (m.word 1) 0 8)
      let low := clampNat 0 15 (fieldAt (m.word 1) 8 8)
      (s.updChan c fun ch => { ch with play := { ch.play with startDepth := depth, lowWater := low, fill := fill } },
       .done .ok [place depth 0 8 ||| place low 8 8 ||| place fill.code 16 2])

/-- SET_PLAYOUT (R42). -/
def execSetPlayout (l : Link) (ch : ChanField) (tag : Tag) (w1 : Word) (s : State) :
    Host.Outcome State Fault Refusal :=
  .next (s.arrive l { kind := .setPlayout, chan := ch, tag := tag, payload := [w1] } takeSetPlayout)

/-- Take a SET_LINE (R43). -/
def takeSetLine : Taking := fun l _ m s =>
  asHolder l m s fun c =>
    match loopbackOf (loopbackField (m.word 1)) with
    | none => refuse s .badValue
    | some lb =>
      (s.updChan c fun ch => { ch with loopback := lb, idle := sampleAt (m.word 1) 16 },
       .done .ok [lineWord lb (sampleAt (m.word 1) 16)])

/-- SET_LINE (R43). -/
def execSetLine (l : Link) (ch : ChanField) (tag : Tag) (w1 : Word) (s : State) : Host.Outcome State Fault Refusal :=
  .next (s.arrive l { kind := .setLine, chan := ch, tag := tag, payload := [w1] } takeSetLine)

end Sys2Proof.Machine
end

