-- ==== Sys2Proof/Machine/Highway.lean ====
section
/-! DEFINITION. The line highway (chapter 2): the channel frame operation with its block boundary work, the monitor,
and the events FRAME_SYNC, SYNC_WINDOW_CLOSE and FRAME_ARRIVAL. -/

namespace Sys2Proof.Machine

/-! ### The frame operation (R26 to R30) -/

/-- The block boundary work of the 16th sample, in the order of R30: close the rx block, leak, evaluate, retune,
watch. DEDUCED (assumption 27): R30 has the block sample index return to 0 after the five steps, R79 has it equal the
length of the assembling block, and R80 empties that block in step 1; the model follows R79 and R80, so that a watch of
context word 13 samples an index of 0 in step 5. -/
def State.blockBoundary (s : State) (c : Chan) (samples : List Sample) : State :=
  let seq := (s.chan c).nextRx
  let s := s.closeRxBlock c samples
  let s := s.updChan c Channel.leakStep
  let s := s.convergeStep c
  let s := s.divergeStep c
  let s := s.applyRetune c
  s.watchStep c seq

/-- Stages 6 and 7: the error sample is appended, and the 16th of a block brings the boundary work (R30, R79). -/
def State.appendError (s : State) (c : Chan) (e : Sample) : State :=
  let block := (s.chan c).asm ++ [e]
  if 16 ≤ block.length then s.blockBoundary c block else s.updChan c fun ch => { ch with asm := block }

/-- Stages 2 to 7 with the outbound sample x and the inbound sample y chosen (R28, R31). The slot carries x. -/
def State.frameStages (s : State) (c : Chan) (x y : Sample) : State :=
  let s := (s.writeHistory c x).drive (s.chan c).slot x
  let e := (s.chan c).error s.pool y
  let s := s.updChan c fun ch => (ch.echo s.pool y).power y e
  s.appendError c (BitVec.ofInt 16 e)

/-- One channel's frame operation (R28, R29): the loopback mode, read at its start, chooses x and y. -/
def State.frameOp (inbound : Vector Sample 64) (s : State) (c : Chan) : State :=
  let line := (s.chan c).inboundOf inbound
  let played := s.playoutSample c
  match (s.chan c).loopback with
  | .noLoop => played.1.frameStages c played.2 line
  | .localLoop => played.1.frameStages c played.2 played.2
  | .lineLoop => played.1.frameStages c line line

/-- The channels that run a frame operation: none while a reset has stopped them (R22, R26). -/
def State.runningChans (s : State) : List Chan :=
  if s.mark then [] else allChans.filter fun c => (s.chan c).state.runs

/-- The channels whose slots carry their idle value: those OPENING (R31), unless a reset has stopped them. -/
def State.openingChans (s : State) : List Chan :=
  if s.mark then [] else allChans.filter fun c => (s.chan c).state == .opening

/-- The running channels in the free order of one frame arrival (R26, `Config.frameOrderKey`). -/
def State.frameOrder (s : State) : List Chan :=
  sortByKey (fun c => Config.frameOrderKey s.freeCount c.val) s.runningChans

/-- The work of a frame arrival: the outbound slots of the frame it opens are driven, and every running channel runs
its frame operation (R26, R27, R31). -/
def State.runFrame (s : State) (inbound : Vector Sample 64) : State :=
  let order := s.frameOrder
  let s := s.openingChans.foldl (fun s c => s.drive (s.chan c).slot (s.chan c).idle) s.undrive
  order.foldl (State.frameOp inbound) { s with freeCount := s.freeCount + 1 }

/-! ### The monitor (R23 to R25) -/

/-- Is an arrival inside the window around an expected time (section 2-1)? -/
def onTime (expected t : Nat) : Bool := decide (expected ≤ t + Config.syncWindow ∧ t ≤ expected + Config.syncWindow)

/-- The monitor becomes LOCKED after the sync at `t` (R24). -/
def State.lock (s : State) (t : Nat) : State :=
  { s with locked := true, goodRun := 8, missedRun := 0, reference := some (t + Config.framePeriod) }.notifyDevice
    .highwayLocked

/-- A sync while ABSENT that continues the run of good syncs (R24). -/
def State.goodSync (s : State) (t : Nat) : State :=
  if 8 ≤ s.goodRun + 1 then s.lock t else { s with goodRun := s.goodRun + 1, reference := some t }

/-- A sync while the monitor is ABSENT (R24). A sync outside the window of the reference starts a run of 1: one before
it by the third row of R24, one after it because the window has closed without a sync and left no reference. -/
def State.syncAbsent (s : State) (t : Nat) : State :=
  match s.reference with
  | some r =>
    if onTime (r + Config.framePeriod) t then s.goodSync t else { s with goodRun := 1, reference := some t }
  | none => { s with goodRun := 1, reference := some t }

/-- A sync while the monitor is LOCKED: a frame arrival if it is on time, else ignored (R25). -/
def State.syncLocked (s : State) (t : Nat) (inbound : Vector Sample 64) : State :=
  match s.reference with
  | some r =>
    if onTime r t then
      { s with missedRun := 0, reference := some (t + Config.framePeriod) }.runFrame inbound
    else s
  | none => s

/-- A highway frame sync at `t` that closes the frame `inbound` (R24, R25). The part is held while the pin is asserted
(R143). -/
def State.sync (s : State) (t : Nat) (inbound : Vector Sample 64) : State :=
  if s.pin then s else if s.locked then s.syncLocked t inbound else s.syncAbsent t

/-- The sync window closes with no sync (R24, R25). The missed frame drives no slot. -/
def State.windowClosed (s : State) : State :=
  if s.pin then s
  else if s.locked then
    if 2 ≤ s.missedRun + 1 then
      { s.undrive with locked := false, goodRun := 0, missedRun := 0, reference := none }.notifyDevice .highwayLost
    else { s.undrive with missedRun := s.missedRun + 1, reference := s.reference.map (· + Config.framePeriod) }
  else { s with goodRun := 0, reference := none }

/-- FRAME_SYNC (R24, R25): a highway frame sync, judged by the monitor. -/
def execFrameSync (t : Nat) (inbound : Vector Sample 64) (s : State) : Host.Outcome State Fault Refusal :=
  .next (s.sync t inbound)

/-- SYNC_WINDOW_CLOSE (R24, R25). -/
def execSyncWindowClose (s : State) : Host.Outcome State Fault Refusal := .next s.windowClosed

/-- FRAME_ARRIVAL (R25 to R31): a sync that the table names a frame arrival. It is one exactly when the monitor is LOCKED
and the sync is on time, so the monitor judges it like any other. -/
def execFrameArrival (t : Nat) (inbound : Vector Sample 64) (s : State) : Host.Outcome State Fault Refusal :=
  .next (s.sync t inbound)

end Sys2Proof.Machine
end

