-- ==== Sys2Proof/Machine/Equalizer.lean ====
section
/-! DEFINITION. The equalizer service (chapter 6): EQ_OPEN, EQ_CLOSE, EQ_SET, EQ_IN, and the engine's JOB_START,
EQ_INPUT_PUSH and JOB_COMPLETE. -/

namespace Sys2Proof.Machine

/-! ### EQ contexts (R91 to R93) -/

/-- An EQ_OPEN's Ne, A, train m and track m as sent; the short form takes 16, 1024, 16 and 20 (R92). -/
def eqOpenFields (m : CmdMsg) : Nat × Nat × Nat × Nat :=
  if m.payload.length < 3 then (16, 1024, 16, 20)
  else (fieldAt (m.word 2) 0 8, fieldAt (m.word 3) 0 16, fieldAt (m.word 2) 8 8, fieldAt (m.word 2) 16 8)

/-- The start values of an EQ context (R92). -/
def EqCtx.start (lv ne a tr tk : Nat) (mode : EqMode) : EqCtx :=
  { ne := ne, taps := unityTaps ne, line := List.replicate ne (0, 0), phase := false, lv := lv, a := a, mode := mode,
    resume := mode, trainM := tr, trackM := tk, peps := 0 }

/-- The further words of the OK to EQ_OPEN: three words with the effective values; M is L² (section 11-3). -/
def EqCtx.openBody (q : EqCtx) : List Word :=
  [place (q.lv * q.lv) 0 9 ||| place q.mode.code 12 3,
   place q.ne 0 8 ||| place q.trainM 8 8 ||| place q.trackM 16 8, place q.a 0 16]

/-- The EQ context an EQ_OPEN asks for, with its effective values (R92); none where M or the mode does not exist. -/
def eqRequest (m : CmdMsg) : Option EqCtx :=
  match levelsOf (fieldAt (m.word 1) 0 9), eqModeOf (fieldAt (m.word 1) 12 3) with
  | some lv, some mode =>
    let f := eqOpenFields m
    some (EqCtx.start lv (effectiveEqTaps f.1) (effectiveSpacing lv f.2.1) (effectiveStep f.2.2.1)
      (effectiveStep f.2.2.2) mode)
  | _, _ => none

/-- EQ_OPEN once it is not held: the checks and the effect of R92. -/
def eqOpenNow (l : Link) (m : CmdMsg) (s : State) : State × Reply :=
  asHolder l m s fun c =>
    match eqRequest m with
    | none => refuse s .badValue
    | some q =>
      if s.eqUsed - (s.chan c).eqTaps + q.ne > Config.eqBudget then refuse s .noEqSpace
      else
        ({ s.updChan c (fun ch => { ch with eq := some q }) with eqUsed := s.eqUsed - (s.chan c).eqTaps + q.ne },
         .done .ok q.openBody)

/-- Take an EQ_OPEN (R92, R107). -/
def takeEqOpen : Taking := fun l _ m s =>
  withChan m s fun c => if s.jobRuns c then (s, .held) else eqOpenNow l m s

/-- EQ_OPEN (R92, R107). -/
def execEqOpen (l : Link) (ch : ChanField) (tag : Tag) (p : EqOpenPayload) (s : State) :
    Host.Outcome State Fault Refusal :=
  .next (s.arrive l { kind := .eqOpen, chan := ch, tag := tag, payload := p.words } takeEqOpen)

/-- EQ_CLOSE once it is not held (R93): the context goes, its taps return to the budget, and every queued job of the
channel has the result NO_EQ. -/
def eqCloseNow (l : Link) (m : CmdMsg) (s : State) : State × Reply :=
  asHolder l m s fun c =>
    if (s.chan c).eq.isNone then refuse s .badValue
    else
      ({ s.updChan c (fun ch => { ch with eq := none }) with eqUsed := s.eqUsed - (s.chan c).eqTaps }.finishQueued c
        .noEq, .done .ok [])

/-- Take an EQ_CLOSE (R93, R107). -/
def takeEqClose : Taking := fun l _ m s =>
  withChan m s fun c => if s.jobRuns c then (s, .held) else eqCloseNow l m s

/-- EQ_CLOSE (R93, R107). -/
def execEqClose (l : Link) (ch : ChanField) (tag : Tag) (s : State) : Host.Outcome State Fault Refusal :=
  .next (s.arrive l { kind := .eqClose, chan := ch, tag := tag, payload := [] } takeEqClose)

/-- EQ_SET once it is not held (R93). -/
def eqSetNow (l : Link) (m : CmdMsg) (s : State) : State × Reply :=
  asHolder l m s fun c =>
    match (s.chan c).eq, eqModeOf (fieldAt (m.word 1) 0 3) with
    | some q, some mode =>
      let tr := effectiveStep (fieldAt (m.word 1) 8 8)
      let tk := effectiveStep (fieldAt (m.word 1) 16 8)
      (s.updChan c fun ch => { ch with eq := some { q with mode := mode, trainM := tr, trackM := tk } },
       .done .ok [place mode.code 0 3 ||| place tr 8 8 ||| place tk 16 8])
    | _, _ => refuse s .badValue

/-- Take an EQ_SET (R93, R107). -/
def takeEqSet : Taking := fun l _ m s =>
  withChan m s fun c => if s.jobRuns c then (s, .held) else eqSetNow l m s

/-- EQ_SET (R93, R107). -/
def execEqSet (l : Link) (ch : ChanField) (tag : Tag) (w1 : Word) (s : State) : Host.Outcome State Fault Refusal :=
  .next (s.arrive l { kind := .eqSet, chan := ch, tag := tag, payload := [w1] } takeEqSet)

/-! ### EQ_IN (R95 to R97) -/

/-- The input count n of an EQ_IN (Table 48). -/
def eqInputs (ws : List Word) : Nat := fieldAt (ws.getD 0 0) 0 5

/-- The reference count r of an EQ_IN (Table 48). -/
def eqRefs (ws : List Word) : Nat := fieldAt (ws.getD 0 0) 8 4

/-- Do an EQ_IN's counts lie in range and match its length (R96 step 2)? -/
def eqInFormed (ws : List Word) : Bool :=
  decide (1 ≤ eqInputs ws ∧ eqInputs ws ≤ 16 ∧ eqRefs ws ≤ 8 ∧ ws.length = eqInputs ws + eqRefs ws + 1)

/-- A header kind of Table 47 whose length it does not permit: an EQ_IN has 2 to 25 payload words (R130). -/
def eqInLengthOk (ws : List Word) : Bool := decide (2 ≤ ws.length ∧ ws.length ≤ 25)

/-- The job an EQ_IN asks for, in a job slot (R95). -/
def jobOf (k : Fin 4) (ch : ChanField) (tag : Tag) (ws : List Word) (st : JobState) : Job :=
  { place := k, tag := tag, chan := ch, state := st
    inputs := ((ws.drop 1).take (eqInputs ws)).map unpackPair
    refs := ((ws.drop (1 + eqInputs ws)).take (eqRefs ws)).map fun w => (fieldAt w 0 8, fieldAt w 8 8) }

/-- The first of the 4 job slots that no job takes. -/
def LinkPort.freeJobPlace (p : LinkPort) : Option (Fin 4) := allLinks.find? fun k => p.jobs.all fun j => j.place != k

/-- How a job that takes a slot begins: answered at once with NO_EQ or NOT_HOLDER, or QUEUED (R97). -/
def State.jobBegins (s : State) (l : Link) (ch : ChanField) : JobState :=
  match chanOf ch with
  | some c =>
    if (s.chan c).eq.isNone || decide ((s.chan c).state = .free ∨ (s.chan c).state = .opening) then
      .ready (EqResult.bare .noEq)
    else if (s.chan c).holder = some l then .queued
    else .ready (EqResult.bare .notHolder)
  | none => .ready (EqResult.bare .noEq)

/-- The port with a job in one of its slots; a result made at once is READY (R97). -/
def LinkPort.addJob (p : LinkPort) (j : Job) : LinkPort :=
  { p with
    jobs := p.jobs ++ [j]
    ready := match j.state with | .ready _ => p.ready ++ [j.place] | _ => p.ready }

/-- A job for which no slot is free: counted on a running channel and reported by EQ_SKIPPED (R96 step 3). -/
def State.skipJob (s : State) (l : Link) (ch : ChanField) (tag : Tag) : State :=
  let s :=
    match chanOf ch with
    | some c =>
      if (s.chan c).state.runs then
        s.updChan c fun r => { r with cnt := { r.cnt with eqJobsSkipped := stick16 r.cnt.eqJobsSkipped } }
      else s
    | none => s
  s.notify l { chan := ch, body := .eqSkipped tag }

/-- A well-formed EQ_IN, no reset being in progress (R96 steps 3 and 4, R97). -/
def State.submitJob (s : State) (l : Link) (ch : ChanField) (tag : Tag) (ws : List Word) : State :=
  match (s.port l).freeJobPlace with
  | some k => s.updPort l (·.addJob (jobOf k ch tag ws (s.jobBegins l ch)))
  | none => s.skipJob l ch tag

/-- A malformed header or message on a port: counted, and the next word is at a header position; the fourth in a row
takes the link OUT_OF_STEP, without word alignment (R130, R131). DESIGN CHOICE (assumption 28): the 1 bits that the port
then watches for are counted from here. -/
def LinkPort.malformed (p : LinkPort) : LinkPort :=
  if 4 ≤ p.malformedRun + 1 then
    { p with
      malformedMessages := stick16 p.malformedMessages, malformedRun := 0, state := .outOfStep, framing := .unaligned 0
      part := [] }
  else { p.atHeader with malformedMessages := stick16 p.malformedMessages, malformedRun := p.malformedRun + 1 }

/-- EQ_IN (R96, R97, R129, R130, R141). A message whose counts do not match its length is malformed; during a reset it
is discarded uncounted, and restarts the silence timer only if it is well formed (assumption 13). -/
def execEqIn (l : Link) (ch : ChanField) (tag : Tag) (payload : List Word) (s : State) :
    Host.Outcome State Fault Refusal :=
  if s.listens l then
    if !eqInLengthOk payload then .next (s.updPort l LinkPort.malformed)
    else if eqInFormed payload then
      if s.mark then .next (s.updPort l LinkPort.heard)
      else .next ((s.updPort l LinkPort.heard).submitJob l ch tag payload)
    else if s.mark then .next (s.updPort l LinkPort.atHeader)
    else .next (s.updPort l LinkPort.malformed)
  else .next s

/-! ### JOB_START (R98) -/

/-- The cyclic order of the links, from the one after the last served to the last served itself (R98). -/
def linkOrder (last : Link) : List Link := allLinks.map fun i => last + 1 + i

/-- The QUEUED job of a port that arrived first (R98). -/
def LinkPort.oldestQueued (p : LinkPort) : Option Job := p.jobs.find? fun j => decide (j.state = .queued)

/-- The engine starts a job of link `l` on channel `c` (R98). -/
def State.startJob (s : State) (l : Link) (j : Job) (c : Chan) : State :=
  { s.updPort l (·.updJob j.place fun j => { j with state := .running }) with
    engine := some
      { link := l, place := some j.place, chan := c, inputs := j.inputs, refs := j.refs, outputs := [], closed := false }
    eqLast := l }

/-- The next choice of the engine (R98): idle, it takes the oldest QUEUED job of the next link in turn. A running
engine, or one with no QUEUED job, makes no choice. -/
def State.chooseJob (s : State) : State :=
  match s.engine with
  | some _ => s
  | none =>
    match (linkOrder s.eqLast).find? fun l => (s.port l).oldestQueued.isSome with
    | some l =>
      match (s.port l).oldestQueued with
      | some j =>
        match chanOf j.chan with
        | some c => s.startJob l j c
        | none => s
      | none => s
    | none => s

/-- JOB_START (R98): the idle engine starts a job that has entered QUEUED. The choice after a completion is part of
JOB_COMPLETE (R99). -/
def execJobStart (s : State) : Host.Outcome State Fault Refusal := .next s.chooseJob

/-! ### EQ_INPUT_PUSH (R100 to R105) -/

/-- The exact real sum of R101. -/
def sumRe : List (Tap × Tap) → List Cplx → Int
  | (cr, ci) :: ts, (ur, uq) :: us => cr.toInt * ur.toInt - ci.toInt * uq.toInt + sumRe ts us
  | _, _ => 0

/-- The exact imaginary sum of R101. -/
def sumIm : List (Tap × Tap) → List Cplx → Int
  | (cr, ci) :: ts, (ur, uq) :: us => cr.toInt * uq.toInt + ci.toInt * ur.toInt + sumIm ts us
  | _, _ => 0

/-- One axis of the slicer: the decided level (R102). -/
def sliceLevel (lv a : Nat) (z : Int) : Int :=
  saturate (-((lv - 1 : Nat) * a : Int)) ((lv - 1 : Nat) * a) ((2 * (z / (2 * a)) + 1) * a)

/-- The decision index of a level (R102). -/
def levelIndex (lv a : Nat) (d : Int) : Nat := ((d / a + (lv - 1 : Nat)) / 2).toNat

/-- The level of a reference index, clamped to 0 to L − 1 (R103). -/
def referenceLevel (lv a r : Nat) : Int := (2 * (min r (lv - 1) : Nat) - (lv - 1 : Nat) : Int) * a

/-- The output z of R101, as exact integers. -/
def EqCtx.output (q : EqCtx) : Int × Int :=
  (saturateSample (roundShift (sumRe q.taps q.line) 22), saturateSample (roundShift (sumIm q.taps q.line) 22))

/-- The decided point of R102. -/
def EqCtx.decision (q : EqCtx) : Int × Int := (sliceLevel q.lv q.a q.output.1, sliceLevel q.lv q.a q.output.2)

/-- The target of an output and the references left (R103). -/
def EqCtx.target (q : EqCtx) (refs : List (Nat × Nat)) : (Int × Int) × List (Nat × Nat) :=
  match q.mode, refs with
  | .train, r :: rest => ((referenceLevel q.lv q.a r.1, referenceLevel q.lv q.a r.2), rest)
  | _, _ => (q.decision, refs)

/-- The saturated error of an output (R103). -/
def EqCtx.errorTo (q : EqCtx) (target : Int × Int) : Int × Int :=
  (saturateSample (target.1 - q.output.1), saturateSample (target.2 - q.output.2))

/-- One EQ tap after the update with error (er, ei) and input (ur, uq) (R104). -/
def updateEqTap (m : Nat) (er ei : Int) (t : Tap × Tap) (u : Cplx) : Tap × Tap :=
  (BitVec.ofInt 24 (clampTap (t.1.toInt + roundShift (er * u.1.toInt + ei * u.2.toInt) m)),
   BitVec.ofInt 24 (clampTap (t.2.toInt + roundShift (ei * u.1.toInt - er * u.2.toInt) m)))

/-- P_eps after an output (R105). -/
def pepsStep (p : BitVec 32) (er ei : Int) : BitVec 32 :=
  BitVec.ofNat 32 (p.toNat - p.toNat / 64 + ((er * er + ei * ei) / 64).toNat)

/-- The taps after an output: updated in TRAIN and TRACK, kept in HOLD (R94, R104). -/
def EqCtx.updatedTaps (q : EqCtx) (err : Int × Int) : List (Tap × Tap) :=
  match q.mode with
  | .train => List.zipWith (updateEqTap q.trainM err.1 err.2) q.taps q.line
  | .track => List.zipWith (updateEqTap q.trackM err.1 err.2) q.taps q.line
  | .hold => q.taps

/-- What an output reports: z and the two decision indexes (R102, R106). -/
def EqCtx.report (q : EqCtx) : EqOutput :=
  { z := (BitVec.ofInt 16 q.output.1, BitVec.ofInt 16 q.output.2)
    reIndex := levelIndex q.lv q.a q.decision.1, imIndex := levelIndex q.lv q.a q.decision.2 }

/-- An input pushed into the delay line, and the phase toggled (R100). -/
def EqCtx.push (q : EqCtx) (u : Cplx) : EqCtx := { q with line := (u :: q.line).take q.ne, phase := !q.phase }

/-- The context after an output made against a target (R104, R105). -/
def EqCtx.learn (q : EqCtx) (target : Int × Int) : EqCtx :=
  { q with
    taps := q.updatedTaps (q.errorTo target)
    peps := pepsStep q.peps (q.errorTo target).1 (q.errorTo target).2 }

/-- One input of a running job: the context, the references left and the outputs made (R100 to R105). -/
def EqCtx.step (q : EqCtx) (u : Cplx) (refs : List (Nat × Nat)) : EqCtx × List (Nat × Nat) × List EqOutput :=
  let q := q.push u
  if q.phase then (q, refs, []) else (q.learn (q.target refs).1, (q.target refs).2, [q.report])

/-- EQ_INPUT_PUSH (R99 to R105, R108): the running job pushes its next input. An idle engine, a job with every input
pushed and a job marked CLOSED push nothing. -/
def execEqInputPush (s : State) : Host.Outcome State Fault Refusal :=
  match s.engine with
  | none => .next s
  | some j =>
    match j.inputs, (s.chan j.chan).eq with
    | u :: us, some q =>
      if j.closed then .next s
      else
        .next { s.updChan j.chan (fun ch => { ch with eq := some (q.step u j.refs).1 }) with
          engine := some { j with
            inputs := us, refs := (q.step u j.refs).2.1, outputs := j.outputs ++ (q.step u j.refs).2.2 } }
    | _, _ => .next s

/-! ### JOB_COMPLETE (R99, R106 to R109) -/

/-- The result of a job at its completion (R99, R106). -/
def State.jobResult (s : State) (j : RunJob) : EqResult :=
  if j.closed then EqResult.bare .closed
  else
    { status := .ok, outputs := j.outputs
      peps := match (s.chan j.chan).eq with | some q => q.peps | none => 0 }

/-- Steps 1 and 2 of R99: the result enters READY in the job's slot, or is discarded where the slot was emptied. -/
def State.readyJob (s : State) (j : RunJob) : State :=
  match j.place with
  | some k =>
    s.updPort j.link fun p =>
      { p.updJob k (fun i => { i with state := .ready (s.jobResult j) }) with ready := p.ready ++ [k] }
  | none => s

/-- Step 3 of R99: a job completed with OK is counted. -/
def State.countJob (s : State) (j : RunJob) : State :=
  if j.closed then s
  else s.updChan j.chan fun ch => { ch with cnt := { ch.cnt with eqJobsDone := wrap32 ch.cnt.eqJobsDone } }

/-- Take one command held behind the completing job (R107): its checks are made in full now. -/
def State.takeHeld (s : State) (h : Held) : State :=
  let r : State × Reply :=
    match h.msg.kind with
    | .eqOpen => eqOpenNow h.link h.msg s
    | .eqClose => eqCloseNow h.link h.msg s
    | .eqSet => eqSetNow h.link h.msg s
    | .clearTaps => clearTapsNow h.link h.msg s
    | .poke => pokeNow h.link h.msg s
    | _ => (s, .done .badValue [])
  r.1.settle h.link h.place h.msg r.2

/-- Steps 1 to 4 of R99 and the engine IDLE: the result is READY, the job counted, the held commands taken in order. -/
def State.finishJob (s : State) (j : RunJob) : State :=
  let s := (s.readyJob j).countJob j
  let s := s.held.foldl State.takeHeld { s with held := [] }
  { s with engine := none }

/-- Steps 1 to 5 of R99, the last being the next choice by R98. -/
def State.completeJob (s : State) (j : RunJob) : State := (s.finishJob j).chooseJob

/-- JOB_COMPLETE (R99). An idle engine completes nothing, and a job not marked CLOSED completes only when every input
has been pushed. -/
def execJobComplete (s : State) : Host.Outcome State Fault Refusal :=
  match s.engine with
  | none => .next s
  | some j => if j.inputs = [] ∨ j.closed = true then .next (s.completeJob j) else .next s

end Sys2Proof.Machine
end

