-- ==== Sys2Proof/Machine/Holders.lean ====
section
/-! DEFINITION. Holders, orphans and handover (chapter 7): SET_SHADOW, ADOPT, HANDOVER, ACCEPT, DECLINE, the handover
timer and its expiry, and what a channel does when a link goes DOWN. -/

namespace Sys2Proof.Machine

/-! ### SET_SHADOW (R113) -/

/-- The refusal of a SET_SHADOW by its link field, for holder `l` (R113 steps 2 and 3). -/
def shadowRefusal (s : State) (l : Link) (n : Nat) : Option Code :=
  if n = 255 then none
  else
    match linkOf n with
    | some k => if k = l then some .badValue else if s.isDown k then some .linkDown else none
    | none => some .badValue

/-- The record after a SET_SHADOW of a link or none (R113, R84). -/
def Channel.shadowTo (ch : Channel) (k : Option Link) : Channel :=
  if ch.state = .handoverPending then { ch with saved := k } else { ch with copy := k }.editRx

/-- Take a SET_SHADOW (R113). -/
def takeSetShadow : Taking := fun l _ m s =>
  asHolder l m s fun c =>
    let n := fieldAt (m.word 1) 0 8
    match shadowRefusal s l n with
    | some code => refuse s code
    | none =>
      let after := (s.chan c).shadowTo (linkOf n)
      (s.setChan c after, .done .ok [place (linkByte after.copy) 0 8 ||| place (linkByte after.saved) 8 8])

/-- SET_SHADOW (R113). -/
def execSetShadow (l : Link) (ch : ChanField) (tag : Tag) (w1 : Word) (s : State) : Host.Outcome State Fault Refusal :=
  .next (s.arrive l { kind := .setShadow, chan := ch, tag := tag, payload := [w1] } takeSetShadow)

/-! ### HANDOVER (R117, R118) -/

/-- The refusal of a HANDOVER to the link of a field, from link `l` (R117). -/
def handoverRefusal (s : State) (c : Chan) (l : Link) (n : Nat) : Option Code :=
  if (s.chan c).state = .opening then some .busy
  else if (s.chan c).state = .free ∨ (s.chan c).state = .orphaned ∨ (s.chan c).holder ≠ some l then some .notHolder
  else if (s.chan c).state = .handoverPending then some .busy
  else
    match linkOf n with
    | some k => if k = l then some .badValue else if s.isDown k then some .linkDown else none
    | none => some .badValue

/-- The effective window of a HANDOVER: 20 when absent, else clamped to 1 to 255 (R117). -/
def handoverWindow (m : CmdMsg) : Nat :=
  if m.payload.length < 2 then 20 else clampNat 1 255 (fieldAt (m.word 2) 0 16)

/-- The record after a HANDOVER to `target` (R118, R84). -/
def Channel.offerTo (ch : Channel) (target : Link) (window : Nat) : Channel :=
  { ch with
    offer := some { target := target, window := window }, saved := ch.copy, copy := some target
    state := .handoverPending }.editRx

/-- The notice OFFER (R118). -/
def Channel.offerNotice (ch : Channel) (c : Chan) (window : Nat) : Notice :=
  { chan := fieldOfChan c, body := .offer ch.holder window ch.play.e ch.nextRx }

/-- Take a HANDOVER (R117, R118). -/
def takeHandover : Taking := fun l _ m s =>
  withChan m s fun c =>
    match handoverRefusal s c l (fieldAt (m.word 1) 0 8), linkOf (fieldAt (m.word 1) 0 8) with
    | some code, _ => refuse s code
    | none, some target =>
      ((s.updChan c (·.offerTo target (handoverWindow m))).notify target
        ((s.chan c).offerNotice c (handoverWindow m)),
       .done .ok [place target.val 0 8 ||| place (handoverWindow m) 8 8])
    | none, none => refuse s .badValue

/-- HANDOVER (R117, R118). -/
def execHandover (l : Link) (ch : ChanField) (tag : Tag) (p : HandoverPayload) (s : State) :
    Host.Outcome State Fault Refusal :=
  .next (s.arrive l { kind := .handover, chan := ch, tag := tag, payload := p.words } takeHandover)

/-! ### ADOPT (R116) -/

/-- The links that receive an ADOPTED: every link but the new holder (R116, R120); a DOWN one is no recipient. -/
def othersThan (l : Link) : List Link := allLinks.filter (· != l)

/-- The further words of the OK to ADOPT and ACCEPT: E word, gears word, copy destination (section 11-3). -/
def Channel.takeoverBody (ch : Channel) : List Word :=
  [eWord ch.play.e ch.nextRx, ch.gearsWord, place (linkByte ch.copy) 0 8]

/-- A copy destination that is now the holder becomes none (R116 step 4). -/
def Channel.dropOwnCopy (ch : Channel) : Channel := if ch.copy = ch.holder then { ch with copy := none } else ch

/-- The record after an ADOPT by link `l` (R116 steps 1 to 6). -/
def Channel.adoptedBy (ch : Channel) (l : Link) : Channel :=
  let ch := if ch.offer.isSome then ch.endOffer else ch
  ({ ch with holder := some l, state := .active }.dropOwnCopy).restoreGears.editRx

/-- Tell the target of a standing offer, unless it is the adopter (R116 step 2). -/
def State.withdrawFor (s : State) (c : Chan) (l : Link) : State :=
  match (s.chan c).offer with
  | some o => if o.target = l then s else s.withdrawOffer c .adopted
  | none => s

/-- The state after an ADOPT of channel `c` by link `l`, its response apart (R116). -/
def State.adoptTaken (s : State) (c : Chan) (l : Link) : State :=
  let after := (s.chan c).adoptedBy l
  ((s.withdrawFor c l).setChan c after).notifyEach (othersThan l)
    { chan := fieldOfChan c, body := .adopted l after.gearsWord }

/-- Take an ADOPT (R116): from any link, of an ORPHANED channel only. -/
def takeAdopt : Taking := fun l _ m s =>
  withChan m s fun c =>
    if (s.chan c).state = .orphaned then
      (s.adoptTaken c l, .done .ok ((s.chan c).adoptedBy l).takeoverBody)
    else refuse s .notOrphaned

/-- ADOPT (R116). -/
def execAdopt (l : Link) (ch : ChanField) (tag : Tag) (s : State) : Host.Outcome State Fault Refusal :=
  .next (s.arrive l { kind := .adopt, chan := ch, tag := tag, payload := [] } takeAdopt)

/-! ### ACCEPT and DECLINE (R120, R121) -/

/-- Is an ACCEPT or DECLINE from link `l` taken: a standing offer to it on a HANDOVER_PENDING or ORPHANED channel
(R120)? -/
def Channel.offeredTo (ch : Channel) (l : Link) : Bool :=
  (ch.state == .handoverPending || ch.state == .orphaned) && (ch.offer.map Offer.target) == some l

/-- The record after an ACCEPT by link `l` (R120 steps 1 to 4 and 6). -/
def Channel.acceptedBy (ch : Channel) (l : Link) : Channel :=
  let taken := { ch with offer := none, holder := some l, copy := none, saved := none, state := .active }.editRx
  if ch.state = .orphaned then taken.restoreGears else taken

/-- The queued jobs of the former holder are answered NOT_HOLDER (R109, R120 step 5). -/
def State.dismissHolder (s : State) (c : Chan) : State :=
  match (s.chan c).holder with
  | some h => s.finishQueuedOf h c .notHolder
  | none => s

/-- The notices of an ACCEPT: ADOPTED if the channel was ORPHANED, else HANDOVER_DONE to the former holder (R120). -/
def State.tellAccepted (s : State) (c : Chan) (l : Link) (before : Channel) : State :=
  if before.state = .orphaned then
    s.notifyEach (othersThan l) { chan := fieldOfChan c, body := .adopted l (before.acceptedBy l).gearsWord }
  else s.notifyEach before.holder.toList { chan := fieldOfChan c, body := .handoverDone l }

/-- Take an ACCEPT (R120). -/
def takeAccept : Taking := fun l _ m s =>
  withChan m s fun c =>
    if (s.chan c).offeredTo l then
      (((s.dismissHolder c).setChan c ((s.chan c).acceptedBy l)).tellAccepted c l (s.chan c),
       .done .ok ((s.chan c).acceptedBy l).takeoverBody)
    else refuse s .notOffered

/-- ACCEPT (R120). -/
def execAccept (l : Link) (ch : ChanField) (tag : Tag) (s : State) : Host.Outcome State Fault Refusal :=
  .next (s.arrive l { kind := .accept, chan := ch, tag := tag, payload := [] } takeAccept)

/-- The record after an offer ends without a new holder: the saved shadow is restored, the pending sets are edited, and
a HANDOVER_PENDING channel is ACTIVE again (R119, R121). -/
def Channel.offerFailed (ch : Channel) : Channel := ch.endOffer.backToActive.editRx

/-- The notice HANDOVER_FAILED to the holder, if there is one (R119, R121, R122). -/
def State.tellFailed (s : State) (c : Chan) (target : Link) (why : Reason) (holder : Option Link) : State :=
  s.notifyEach holder.toList { chan := fieldOfChan c, body := .handoverFailed target why }

/-- Take a DECLINE (R121). -/
def takeDecline : Taking := fun l _ m s =>
  withChan m s fun c =>
    if (s.chan c).offeredTo l then
      ((s.updChan c Channel.offerFailed).tellFailed c l .declined (s.chan c).holder, .done .ok [])
    else refuse s .notOffered

/-- DECLINE (R121). -/
def execDecline (l : Link) (ch : ChanField) (tag : Tag) (s : State) : Host.Outcome State Fault Refusal :=
  .next (s.arrive l { kind := .decline, chan := ch, tag := tag, payload := [] } takeDecline)

/-! ### The handover timer (R119) -/

/-- HANDOVER_TIMER_TICK (R119): 10 ms of the crystal timebase pass for the channel's handover timer. It counts while an
offer stands and no reset has stopped it (R22, R127), and stops at 0. -/
def execHandoverTimerTick (c : Chan) (s : State) : Host.Outcome State Fault Refusal :=
  match (s.chan c).offer with
  | some o =>
    if s.mark then .next s
    else .next (s.updChan c fun ch => { ch with offer := some { o with window := o.window - 1 } })
  | none => .next s

/-- The state after the expiry of a standing offer (R119). -/
def State.expireOffer (s : State) (c : Chan) (o : Offer) : State :=
  ((s.updChan c Channel.offerFailed).notify o.target
    { chan := fieldOfChan c, body := .offerWithdrawn .expired }).tellFailed c o.target .expired (s.chan c).holder

/-- HANDOVER_EXPIRY (R119): the offer expires when its count has reached 0. With no offer, with window remaining, or
with the timer stopped by a reset (R127), nothing expires. -/
def execHandoverExpiry (c : Chan) (s : State) : Host.Outcome State Fault Refusal :=
  match (s.chan c).offer with
  | some o => if o.window = 0 ∧ s.mark = false then .next (s.expireOffer c o) else .next s
  | none => .next s

/-! ### A link going DOWN, channel by channel (R114, R122, R124, R125) -/

/-- The record of a channel whose offer's target has gone DOWN (R122). -/
def Channel.targetDown (ch : Channel) (l : Link) : Channel :=
  ({ ch with saved := if ch.saved = some l then none else ch.saved }).endOffer.backToActive

/-- The offer to a link that has gone DOWN fails (R122). -/
def State.failOfferTo (s : State) (l : Link) (c : Chan) : State :=
  if ((s.chan c).offer.map Offer.target) = some l then
    (s.updChan c (·.targetDown l)).tellFailed c l .targetDown (s.chan c).holder
  else s

/-- The record with a shadow or saved shadow that has gone DOWN cleared (R125). -/
def Channel.clearShadow (ch : Channel) (l : Link) : Channel :=
  { ch with
    copy := if ch.offer.isNone ∧ ch.copy = some l then none else ch.copy
    saved := if ch.saved = some l then none else ch.saved }

/-- A channel whose holder has gone DOWN is orphaned, or, OPENING, is left without a holder (R11, R114). -/
def State.loseHolder (s : State) (l : Link) (c : Chan) : State :=
  if (s.chan c).holder = some l then
    if (s.chan c).state = .active ∨ (s.chan c).state = .handoverPending then
      let ch := { (s.chan c).orphanHold with holder := none, state := .orphaned }
      (s.setChan c ch).notifyEach allLinks (ch.orphanedNotice c (some l))
    else s.updChan c fun ch => { ch with holder := none }
  else s

/-- The requester of a pending retune that has gone DOWN becomes none (R74). -/
def Retune.forget (l : Link) (r : Retune) : Retune := { r with requester := if r.requester = some l then none else r.requester }

/-- Everything a link's going DOWN does to one channel (Table 35): its mark leaves the rx queue, a retune it requested
loses its requester, and its roles end. -/
def State.linkLostBy (l : Link) (s : State) (c : Chan) : State :=
  let s := s.updChan c fun ch =>
    { ch with rxq := editQueue (· != l) ch.rxq, retune := ch.retune.map (Retune.forget l) }
  ((s.failOfferTo l c).updChan c (·.clearShadow l)).loseHolder l c

end Sys2Proof.Machine
end

