-- ==== Sys2Proof/Machine/Links.lean ====
section
/-! DEFINITION. Pump links (chapter 8): NOP, LINK_CONFIG, MALFORMED_HEADER, RESYNC and SILENCE_TIMER_EXPIRY. -/

namespace Sys2Proof.Machine

/-- Take a NOP (R137): answered OK, its channel field and payload ignored. -/
def takeNop : Taking := fun _ _ _ s => (s, .done .ok [])

/-- NOP (R137). -/
def execNop (l : Link) (ch : ChanField) (tag : Tag) (payload : List Word) (s : State) :
    Host.Outcome State Fault Refusal :=
  .next (s.arrive l { kind := .nop, chan := ch, tag := tag, payload := payload } takeNop)

/-- The port with a silence setting, the timer restarted with it or stopped (R134). -/
def LinkPort.configure (p : LinkPort) (ms : Nat) : LinkPort := { p with setting := ms, timer := decide (ms ≠ 0) }

/-- Take a LINK_CONFIG (R134). -/
def takeLinkConfig : Taking := fun l _ m s =>
  if m.chan = 63 then
    let ms := clampNat 0 255 (fieldAt (m.word 1) 0 16)
    (s.updPort l (·.configure ms), .done .ok [place ms 0 16])
  else refuse s .badChannel

/-- LINK_CONFIG (R134). -/
def execLinkConfig (l : Link) (ch : ChanField) (tag : Tag) (w1 : Word) (s : State) :
    Host.Outcome State Fault Refusal :=
  .next (s.arrive l { kind := .linkConfig, chan := ch, tag := tag, payload := [w1] } takeLinkConfig)

/-- MALFORMED_HEADER (R130): on a link that is UP it is counted, and the fourth in a row takes the link OUT_OF_STEP. In
DOWN and OUT_OF_STEP the words are ignored (Table 34). -/
def execMalformedHeader (l : Link) (s : State) : Host.Outcome State Fault Refusal :=
  if s.listens l then .next (s.updPort l LinkPort.malformed) else .next s

/-- The port after a RESYNC pair (R128, R131): a DOWN link becomes UP and first sends its own pair; an OUT_OF_STEP link
becomes UP; in every state the malformed run is 0, the silence timer restarts, and the next word is at a header position
where a further all-ones word extends the pair. -/
def LinkPort.resynced (p : LinkPort) : LinkPort :=
  match p.state with
  | .down => { p.heard with state := .up, framing := .extended, tx := .resyncPair }
  | .up | .outOfStep => { p.heard with state := .up, framing := .extended }

/-- RESYNC (R131, R132). While the part is held every inbound word is ignored (R143). -/
def execResync (l : Link) (s : State) : Host.Outcome State Fault Refusal :=
  if s.pin then .next s else .next (s.updPort l LinkPort.resynced)

/-! ### A link going DOWN (R135) -/

/-- The port of a link that goes DOWN, without word alignment from then on (Table 35, R131). The silence setting, the
counters and the last-served channel are kept. DESIGN CHOICE (assumption 28): the 1 bits that the port then watches for
are counted from here. -/
def LinkPort.goDown (p : LinkPort) : LinkPort :=
  { p with
    state := .down, framing := .unaligned 0, part := [], malformedRun := 0, timer := false, intake := [],
    responses := [], notices := [], lost := 0, tx := .idle, jobs := [], ready := [], watch := none, watchData := none }

/-- A running job whose slot has been emptied: its result will be discarded (R109). -/
def orphanJob (l : Link) (j : RunJob) : RunJob := if j.link = l then { j with place := none } else j

/-- The state after a link goes DOWN, in one action (R135, Table 35); the channels are treated in rising order, which
places their notices in that order. -/
def State.linkDown (s : State) (l : Link) : State :=
  let s := s.updPort l LinkPort.goDown
  let s := { s with engine := s.engine.map (orphanJob l), held := s.held.filter fun h => h.link != l }
  allChans.foldl (State.linkLostBy l) s

/-- SILENCE_TIMER_EXPIRY (R133, R135). A timer that does not run does not expire. -/
def execSilenceTimerExpiry (l : Link) (s : State) : Host.Outcome State Fault Refusal :=
  if (s.port l).state ≠ .down ∧ (s.port l).timer = true then .next (s.linkDown l) else .next s

end Sys2Proof.Machine
end

