-- ==== Sys2Proof/Machine/Resets.lean ====
section
/-! DEFINITION. The device reset, power-on and the reset pin (R22, R110, R127, R139 to R143). -/

namespace Sys2Proof.Machine

/-! ### RESET_DEVICE (R139, R140) -/

/-- Is a channel held by a link other than `l` (R139)? -/
def Channel.heldByOther (ch : Channel) (l : Link) : Bool :=
  match ch.state, ch.holder with
  | .active, some h => h != l
  | .handoverPending, some h => h != l
  | .opening, some h => h != l
  | _, _ => false

/-- A channel stopped by a reset: its rx queue and assembling block are discarded, uncounted (R22). -/
def Channel.stopped (ch : Channel) : Channel := { ch with rxq := [], asm := [] }

/-- A message being sent, with the intake entry or job slot it would free already emptied (R110, R140). -/
def OutMsg.detached : OutMsg → OutMsg
  | .response r => .response { r with entry := none }
  | .eqOut tag chan r _ => .eqOut tag chan r none
  | .notice n => .notice n
  | .rxBlock c q b => .rxBlock c q b
  | .watchData d => .watchData d

/-- A transmitter with the message it sends detached. -/
def Tx.detached : Tx → Tx
  | .sending m => .sending m.detached
  | .idle => .idle
  | .resyncPair => .resyncPair

/-- A port when a device reset is accepted; `keep` is the intake place of the requester's RESET_DEVICE (R140). -/
def LinkPort.deviceReset (p : LinkPort) (keep : Option (Fin 4)) : LinkPort :=
  { p.clearCounters with
    intake := p.intake.filter fun e => some e.place == keep
    responses := [], notices := [], lost := 0, tx := p.tx.detached, jobs := [], ready := [], watch := none
    watchData := none }

/-- The acceptance of a RESET_DEVICE in intake place `k` of link `l` (R22 first step, R110, R140). The slots of the
stopped channels are undriven from the next frame arrival, since no channel runs while the mark is set. -/
def State.acceptReset (s : State) (l : Link) (k : Fin 4) : State :=
  let s := { s with clear := .device, engine := none, held := [] }
  let s := allLinks.foldl (fun s i => s.updPort i (·.deviceReset (if i = l then some k else none))) s
  allChans.foldl (fun s c => s.updChan c Channel.stopped) s

/-- Take a RESET_DEVICE (R139): a mark already set is refused with RESETTING at its arrival (R141), then the channel
field must be 63, and no other link may hold a channel. -/
def takeResetDevice : Taking := fun l k m s =>
  if m.chan ≠ 63 then refuse s .badChannel
  else if allChans.any fun c => (s.chan c).heldByOther l then refuse s .inUse
  else (s.acceptReset l k, .started)

/-- RESET_DEVICE (R139, R140). -/
def execResetDevice (l : Link) (ch : ChanField) (tag : Tag) (s : State) : Host.Outcome State Fault Refusal :=
  .next (s.arrive l { kind := .resetDevice, chan := ch, tag := tag, payload := [] } takeResetDevice)

/-! ### Completions of the clears (R22 second step, R110, R142, R143) -/

/-- The channel table, slot map, echo budget, History Pool and Equalizer Engine at their power-on values (R22, R110). -/
def State.clearedContexts (s : State) : State :=
  { s with
    channels := Vector.replicate 48 Channel.free, slotMap := Vector.replicate 64 none, echoUsed := 0
    freeList := List.finRange 128, pool := [], eqUsed := 0, engine := none, eqLast := 3, held := [], clear := .none }

/-- DEVICE_CLEAR_COMPLETE (R142). Without a device clear running, nothing completes. -/
def execDeviceClearComplete (s : State) : Host.Outcome State Fault Refusal :=
  if s.clear = .device then
    .next ((allLinks.foldl (fun s l => s.answerOperation l .resetDevice 63 .ok []) s.clearedContexts).notifyDevice
      .resetDone)
  else .next s

/-- POWER_ON_CLEAR_COMPLETE (R143): the mark is cleared and no notice is sent. Without a power-on clear running, nothing
completes. -/
def execPowerOnClearComplete (s : State) : Host.Outcome State Fault Refusal :=
  if s.clear = .powerOn then .next s.clearedContexts else .next s

/-! ### Power-on and the reset pin (R143) -/

/-- Every value of power-on and the reset pin (R22, R23, R59, R78, R110, R127, Table 38); the waiting commands and the
model's counter of free values are not the part's. -/
def State.powerOnValues (s : State) : State :=
  { State.reset with pin := s.pin, freeCount := s.freeCount, pending := s.pending }

/-- POWER_ON (R143): the part takes its power-on values and the power-on clear begins, unless the pin holds the part, in
which case the clear begins at the pin's release. -/
def execPowerOn (s : State) : Host.Outcome State Fault Refusal :=
  .next { s.powerOnValues with clear := if s.pin then .none else .powerOn }

/-- RESET_PIN_ASSERT (R143): the part is held, and a clear that was running is abandoned. -/
def execResetPinAssert (s : State) : Host.Outcome State Fault Refusal :=
  .next { s.powerOnValues with pin := true }

/-- RESET_PIN_RELEASE (R143): the power-on clear begins. A pin that is not asserted is not released. -/
def execResetPinRelease (s : State) : Host.Outcome State Fault Refusal :=
  if s.pin then .next { s.powerOnValues with pin := false, clear := .powerOn } else .next s

end Sys2Proof.Machine
end

