-- ==== Sys2Proof/Machine/Dispatch.lean ====
section
/-! DEFINITION. The dispatch: one arm per command, each one direct call of its meaning. -/

namespace Sys2Proof.Machine

/-- The effect of a command on everything but the queue. -/
def exec (i : Instr) (s : State) : Host.Outcome State Fault Refusal :=
  match i with
  | .openChannel l ch tag p => Sys2Proof.Machine.execOpen l ch tag p s
  | .contextClearComplete c => Sys2Proof.Machine.execContextClearComplete c s
  | .closeChannel l ch tag => Sys2Proof.Machine.execClose l ch tag s
  | .setNear l ch tag w1 => Sys2Proof.Machine.execSetNear l ch tag w1 s
  | .setFar l ch tag w1 => Sys2Proof.Machine.execSetFar l ch tag w1 s
  | .setAdapt l ch tag w1 w2 w3 w4 => Sys2Proof.Machine.execSetAdapt l ch tag w1 w2 w3 w4 s
  | .clearTaps l ch tag w1 => Sys2Proof.Machine.execClearTaps l ch tag w1 s
  | .setPlayout l ch tag w1 => Sys2Proof.Machine.execSetPlayout l ch tag w1 s
  | .setLine l ch tag w1 => Sys2Proof.Machine.execSetLine l ch tag w1 s
  | .setNotices l ch tag w1 => Sys2Proof.Machine.execSetNotices l ch tag w1 s
  | .setShadow l ch tag w1 => Sys2Proof.Machine.execSetShadow l ch tag w1 s
  | .handover l ch tag p => Sys2Proof.Machine.execHandover l ch tag p s
  | .accept l ch tag => Sys2Proof.Machine.execAccept l ch tag s
  | .decline l ch tag => Sys2Proof.Machine.execDecline l ch tag s
  | .adopt l ch tag => Sys2Proof.Machine.execAdopt l ch tag s
  | .eqOpen l ch tag p => Sys2Proof.Machine.execEqOpen l ch tag p s
  | .eqClose l ch tag => Sys2Proof.Machine.execEqClose l ch tag s
  | .eqSet l ch tag w1 => Sys2Proof.Machine.execEqSet l ch tag w1 s
  | .peek l ch tag w1 => Sys2Proof.Machine.execPeek l ch tag w1 s
  | .poke l ch tag w1 w2 => Sys2Proof.Machine.execPoke l ch tag w1 w2 s
  | .status l ch tag w1 => Sys2Proof.Machine.execStatus l ch tag w1 s
  | .counters l ch tag w1 => Sys2Proof.Machine.execCounters l ch tag w1 s
  | .deviceStatus l ch tag => Sys2Proof.Machine.execDeviceStatus l ch tag s
  | .watch l ch tag w1 => Sys2Proof.Machine.execWatch l ch tag w1 s
  | .nop l ch tag payload => Sys2Proof.Machine.execNop l ch tag payload s
  | .linkConfig l ch tag w1 => Sys2Proof.Machine.execLinkConfig l ch tag w1 s
  | .resetDevice l ch tag => Sys2Proof.Machine.execResetDevice l ch tag s
  | .txBlock l ch w1 samples => Sys2Proof.Machine.execTxBlock l ch w1 samples s
  | .eqIn l ch tag payload => Sys2Proof.Machine.execEqIn l ch tag payload s
  | .jobStart => Sys2Proof.Machine.execJobStart s
  | .eqInputPush => Sys2Proof.Machine.execEqInputPush s
  | .jobComplete => Sys2Proof.Machine.execJobComplete s
  | .malformedHeader l => Sys2Proof.Machine.execMalformedHeader l s
  | .resync l => Sys2Proof.Machine.execResync l s
  | .silenceTimerExpiry l => Sys2Proof.Machine.execSilenceTimerExpiry l s
  | .handoverExpiry c => Sys2Proof.Machine.execHandoverExpiry c s
  | .frameSync t inbound => Sys2Proof.Machine.execFrameSync t inbound s
  | .syncWindowClose => Sys2Proof.Machine.execSyncWindowClose s
  | .frameArrival t inbound => Sys2Proof.Machine.execFrameArrival t inbound s
  | .transmitStart l => Sys2Proof.Machine.execTransmitStart l s
  | .messageCompletion l => Sys2Proof.Machine.execMessageCompletion l s
  | .deviceClearComplete => Sys2Proof.Machine.execDeviceClearComplete s
  | .powerOn => Sys2Proof.Machine.execPowerOn s
  | .resetPinAssert => Sys2Proof.Machine.execResetPinAssert s
  | .resetPinRelease => Sys2Proof.Machine.execResetPinRelease s
  | .powerOnClearComplete => Sys2Proof.Machine.execPowerOnClearComplete s
  | .handoverTimerTick c => Sys2Proof.Machine.execHandoverTimerTick c s
  | .resyncPairSent l => Sys2Proof.Machine.execResyncPairSent l s

end Sys2Proof.Machine
end

