-- ==== Sys2Proof/Machine/Reception.lean ====
section
/-! DEFINITION. The inbound stream of a link, bit by bit (R128 to R132, R143): the framing state in State decides what
each bit completes, and what has arrived is taken at once. A table command is a whole message or event (assumption 22);
this file says which of them the bits of a stream make. -/

namespace Sys2Proof.Machine

/-- The state after a command or event is taken, whatever waits in the queue. -/
def State.take (s : State) (i : Instr) : State :=
  match exec i s with
  | .next t => t
  | .fault _ | .refused _ => s

/-- The port whose inbound stream stands at `f` with the bits `part` of a word begun, where that fits the state of the
link: a stream has word alignment exactly while its link is UP (R131). A port whose link has just left UP has lost its
word alignment already. -/
def LinkPort.framedAt (p : LinkPort) (f : Framing) (part : List Bool) : LinkPort :=
  if f.aligned = (p.state == .up) then { p with framing := f, part := part } else p

/-- The arrival of one bit on a link's inbound stream (R128, R129, R131). While the part is held every inbound word is
ignored (R143). -/
def State.receiveBit (s : State) (l : Link) (b : Bool) : State :=
  if s.pin then s
  else
    let r := (s.port l).framing.bit l (s.port l).part b
    (r.2.2.foldl State.take s).updPort l (·.framedAt r.1 r.2.1)

/-- The arrival of a run of bits on a link's inbound stream. -/
def State.receiveBits (s : State) (l : Link) (bits : List Bool) : State :=
  bits.foldl (fun s b => s.receiveBit l b) s

/-- The arrival of a run of words on a link's inbound stream, each least significant bit first (R128). -/
def State.receiveWords (s : State) (l : Link) (ws : List Word) : State := s.receiveBits l (ws.flatMap wordBits)

end Sys2Proof.Machine
end

