-- ==== Sys2Proof/Safety.lean ====
section
/-! DEFINITION. The terms claims are stated in: the situations a command is taken in, what its entry and its response
leave on the link, and the parts of a sound state, each a statement that the manual says holds at every moment. -/

namespace Sys2Proof

/-- The link and the message of a command; data messages and events are no commands (Table 36). -/
def Instr.command : Instr → Option (Link × Machine.CmdMsg)
  | .openChannel l ch tag p => some (l, { kind := .openChannel, chan := ch, tag := tag, payload := p.words })
  | .closeChannel l ch tag => some (l, { kind := .closeChannel, chan := ch, tag := tag, payload := [] })
  | .setNear l ch tag w => some (l, { kind := .setNear, chan := ch, tag := tag, payload := [w] })
  | .setFar l ch tag w => some (l, { kind := .setFar, chan := ch, tag := tag, payload := [w] })
  | .setAdapt l ch tag w1 w2 w3 w4 =>
    some (l, { kind := .setAdapt, chan := ch, tag := tag, payload := [w1, w2, w3, w4] })
  | .clearTaps l ch tag w => some (l, { kind := .clearTaps, chan := ch, tag := tag, payload := [w] })
  | .setPlayout l ch tag w => some (l, { kind := .setPlayout, chan := ch, tag := tag, payload := [w] })
  | .setLine l ch tag w => some (l, { kind := .setLine, chan := ch, tag := tag, payload := [w] })
  | .setNotices l ch tag w => some (l, { kind := .setNotices, chan := ch, tag := tag, payload := [w] })
  | .setShadow l ch tag w => some (l, { kind := .setShadow, chan := ch, tag := tag, payload := [w] })
  | .handover l ch tag p => some (l, { kind := .handover, chan := ch, tag := tag, payload := p.words })
  | .accept l ch tag => some (l, { kind := .accept, chan := ch, tag := tag, payload := [] })
  | .decline l ch tag => some (l, { kind := .decline, chan := ch, tag := tag, payload := [] })
  | .adopt l ch tag => some (l, { kind := .adopt, chan := ch, tag := tag, payload := [] })
  | .eqOpen l ch tag p => some (l, { kind := .eqOpen, chan := ch, tag := tag, payload := p.words })
  | .eqClose l ch tag => some (l, { kind := .eqClose, chan := ch, tag := tag, payload := [] })
  | .eqSet l ch tag w => some (l, { kind := .eqSet, chan := ch, tag := tag, payload := [w] })
  | .peek l ch tag w => some (l, { kind := .peek, chan := ch, tag := tag, payload := [w] })
  | .poke l ch tag w1 w2 => some (l, { kind := .poke, chan := ch, tag := tag, payload := [w1, w2] })
  | .status l ch tag w => some (l, { kind := .status, chan := ch, tag := tag, payload := w.toList })
  | .counters l ch tag w => some (l, { kind := .counters, chan := ch, tag := tag, payload := w.toList })
  | .deviceStatus l ch tag => some (l, { kind := .deviceStatus, chan := ch, tag := tag, payload := [] })
  | .watch l ch tag w => some (l, { kind := .watch, chan := ch, tag := tag, payload := [w] })
  | .nop l ch tag ws => some (l, { kind := .nop, chan := ch, tag := tag, payload := ws })
  | .linkConfig l ch tag w => some (l, { kind := .linkConfig, chan := ch, tag := tag, payload := [w] })
  | .resetDevice l ch tag => some (l, { kind := .resetDevice, chan := ch, tag := tag, payload := [] })
  | .contextClearComplete _ | .txBlock _ _ _ _ | .eqIn _ _ _ _ | .jobStart | .eqInputPush | .jobComplete
  | .malformedHeader _ | .resync _ | .silenceTimerExpiry _ | .handoverExpiry _ | .frameSync _ _ | .syncWindowClose
  | .frameArrival _ _ | .transmitStart _ | .messageCompletion _ | .deviceClearComplete | .powerOn | .resetPinAssert
  | .resetPinRelease | .powerOnClearComplete | .handoverTimerTick _ | .resyncPairSent _ => none

end Sys2Proof

namespace Sys2Proof.Machine

/-! ### Situations -/

/-- A running channel whose holder is link `l`: the right to a holder command (R111, Table 30). -/
abbrev Channel.HeldBy (ch : Channel) (l : Link) : Prop :=
  (ch.state = .active ∨ ch.state = .handoverPending) ∧ ch.holder = some l

/-- Link `l` is UP, the pin is not asserted, no reset clear runs, and the intake place `k` is the one the next command
takes (R136, R141). -/
abbrev State.Serves (s : State) (l : Link) (k : Fin 4) : Prop :=
  s.pin = false ∧ (s.port l).state = .up ∧ s.clear = .none ∧ (s.port l).freePlace = some k

/-- The message of a command that names channel `c`. -/
def CmdMsg.on (kind : CmdKind) (c : Chan) (tag : Tag) (payload : List Word) : CmdMsg :=
  { kind := kind, chan := fieldOfChan c, tag := tag, payload := payload }

/-- A port a notice is placed for: a link that is DOWN is no recipient (R144, R147). -/
def LinkPort.told (p : LinkPort) (n : Notice) : LinkPort := if p.state = .down then p else p.putNotice n

/-- A port whose operation in progress of a kind and channel completes with a response; a port without one is
unchanged (R136, R138). -/
def LinkPort.completes (p : LinkPort) (kind : CmdKind) (ch : ChanField) (code : Code) (body : List Word) : LinkPort :=
  match p.inProgress kind ch with
  | some e => p.answer e.place code body
  | none => p

/-- A port after command `m` has arrived, taken intake place `k` and been answered: its entry is ANSWERED and its
response is the newest of the response queue (R129, R133, R136, R137, R138). -/
def LinkPort.replied (p : LinkPort) (k : Fin 4) (m : CmdMsg) (code : Code) (body : List Word) : LinkPort :=
  { p.heard with
    intake := p.intake ++ [{ place := k, msg := m, state := .answered }]
    responses := p.responses ++
      [{ kind := m.kind, chan := m.chan, tag := m.tag, code := code, body := body, entry := some k }] }

/-- A port after command `m` has arrived and taken intake place `k`, its entry in state `st` and not answered yet. -/
def LinkPort.entered (p : LinkPort) (k : Fin 4) (m : CmdMsg) (st : EntryState) : LinkPort :=
  { p.heard with intake := p.intake ++ [{ place := k, msg := m, state := st }] }

/-- The state in which link `l` has taken command `m` into intake place `k` and answered it. -/
def State.replies (s : State) (l : Link) (k : Fin 4) (m : CmdMsg) (code : Code) (body : List Word) : State :=
  s.updPort l (·.replied k m code body)

/-- The state in which link `l` has taken command `m` into intake place `k`, IN_PROGRESS (R136). -/
def State.begins (s : State) (l : Link) (k : Fin 4) (m : CmdMsg) : State := s.updPort l (·.entered k m .inProgress)

/-- The state in which link `l` has command `m` WAITING in intake place `k`, the last of the commands held behind the
running job (R107, R136). -/
def State.waits (s : State) (l : Link) (k : Fin 4) (m : CmdMsg) : State :=
  { s.updPort l (·.entered k m .waiting) with held := s.held ++ [{ link := l, place := k, msg := m }] }

/-! ### The History Pool's storage -/

/-- The storage is in its canonical form, and every listed address is one of the 32,768 samples of the pool (R18). -/
abbrev State.PoolSound (s : State) : Prop := s.pool.wf = true ∧ ∀ cell ∈ s.pool, cell.1 < 32768

/-! ### Shared resources -/

/-- The charge that R17 gives a channel that is not FREE. -/
def Channel.owed (ch : Channel) : Nat := ch.chargeFor ch.nn

/-- Slots, pages and echo budget are accounted for (R1, R16, R17, R18): a FREE channel has none of them and no pending
retune, an OPENING one no pending retune; slot map and records agree; each of the 128 pages is in the free list or in
one page list, once; the budget in use is the sum of the charges, each the one R17 gives, and at most 6144. -/
abbrev State.AccountsSound (s : State) : Prop :=
  (∀ c, (s.chan c).state = .free →
    (s.chan c).pages = [] ∧ (s.chan c).charge = 0 ∧ (s.chan c).slot = none ∧ (s.chan c).retune = none) ∧
  (∀ c, (s.chan c).state = .opening → (s.chan c).retune = none) ∧
  (∀ c, (s.chan c).state ≠ .free → (s.chan c).slot.isSome = true ∧ (s.chan c).charge = (s.chan c).owed) ∧
  (∀ (k : Slot) (c : Chan), s.slotMap[k.val] = some c ↔ (s.chan c).slot = some k) ∧
  (s.freeList ++ allChans.flatMap fun c => (s.chan c).pages).Nodup ∧
  (s.freeList ++ allChans.flatMap fun c => (s.chan c).pages).length = 128 ∧
  s.echoUsed = (allChans.map fun c => (s.chan c).charge).sum ∧ s.echoUsed ≤ Config.echoBudget

/-! ### Channel records -/

/-- The echo sizes of R6: Nn a multiple of 8 to 64, Nf a multiple of 16 to 128, D to 10,240 − Nf, and 0 with Nf. -/
abbrev SizesSound (nn nf d : Nat) : Prop :=
  nn % 8 = 0 ∧ nn ≤ 64 ∧ nf % 16 = 0 ∧ nf ≤ 128 ∧ d + nf ≤ Config.maxReach ∧ (nf = 0 → d = 0)

/-- A filter of `n` taps: OFF without taps (R61), and exponents in the ranges of R63. -/
abbrev Filter.Sound (f : Filter) (n : Nat) : Prop :=
  f.taps.length = n ∧ (n = 0 → f.gear = .off) ∧ (12 ≤ f.trainM ∧ f.trainM ≤ 30) ∧ (12 ≤ f.trackM ∧ f.trackM ≤ 30) ∧
    (f.leak = 0 ∨ (12 ≤ f.leak ∧ f.leak ≤ 30))

/-- The pages of a channel that is not FREE (R19, R71, R73): 1 to 40, those that serve the applied sizes as many as
R6 asks, and a pending retune's reservation what its sizes ask beyond them. -/
abbrev Channel.PagesSound (ch : Channel) : Prop :=
  ch.pages.length ≤ 40 ∧ ch.servingPages = ({ nn := ch.nn, nf := ch.nf, d := ch.d } : Sizes).pageCount ∧
  ch.writePos < ch.ringLength ∧ ch.filled ≤ ch.ringLength ∧
  (∀ r, ch.retune = some r →
    SizesSound ch.nn r.nf r.d ∧ r.reserved = ch.retunePages r - ch.servingPages ∧
      ch.pages.length = ch.servingPages + r.reserved)

/-- The playout's fields lie in the ranges of R32; PRIMING has no current block, and PLAYING has one or a block to
start (R36, R39). -/
abbrev Playout.Sound (p : Playout) : Prop :=
  p.readPos ≤ 16 ∧ (1 ≤ p.startDepth ∧ p.startDepth ≤ 12) ∧ p.lowWater ≤ 15 ∧
  (p.state = .priming → p.current = none) ∧ (p.state = .playing → p.current.isSome = true ∨ 0 < p.depth)

/-- The orphan hold (R68, R69, R70): no echo filter adapts, and both runs are 0. -/
abbrev Channel.Holds (ch : Channel) : Prop :=
  ch.near.gear.adapts = false ∧ ch.far.gear.adapts = false ∧ ch.convRun = 0 ∧ ch.divRun = 0

/-- A channel record within the ranges the manual gives it, an ORPHANED one with the orphan hold in force (R6, R19, R32,
R44, R45, R55, R61, R63, R68, R69, R79). -/
abbrev Channel.Sound (ch : Channel) : Prop :=
  SizesSound ch.nn ch.nf ch.d ∧ ch.near.Sound ch.nn ∧ ch.far.Sound ch.nf ∧ (ch.state ≠ .free → ch.PagesSound) ∧
  (ch.state = .opening → ch.retune = none) ∧
  (1 ≤ ch.c ∧ ch.c ≤ 15) ∧ (1 ≤ ch.convBlocks ∧ ch.convBlocks ≤ 255) ∧ (1 ≤ ch.divBlocks ∧ ch.divBlocks ≤ 255) ∧
  ch.floor ≤ Config.floorMax ∧ ch.py.toNat ≤ 2 ^ 30 ∧ ch.pe.toNat ≤ 2 ^ 30 ∧ ch.convRun ≤ 255 ∧ ch.divRun ≤ 255 ∧
  ch.asm.length ≤ 15 ∧ ch.play.Sound ∧ (ch.state = .orphaned → ch.Holds)

/-- Every channel record is within its ranges. -/
abbrev State.ChannelsSound (s : State) : Prop := ∀ c, (s.chan c).Sound

/-! ### Holders, copies, offers and rx pending sets -/

/-- The roles of links on one channel, `down` telling which links are DOWN (R74, R81, R112, R118, R120). -/
abbrev Channel.RolesSound (ch : Channel) (down : Link → Bool) : Prop :=
  ((ch.state = .active ∨ ch.state = .handoverPending) → ch.holder.isSome = true) ∧
  ((ch.state = .orphaned ∨ ch.state = .free) → ch.holder = none) ∧
  (∀ l, ch.holder = some l → down l = false ∧ ch.copy ≠ some l ∧ ch.saved ≠ some l) ∧
  (∀ l, ch.copy = some l → down l = false) ∧ (∀ l, ch.saved = some l → down l = false) ∧
  (ch.state = .handoverPending → ch.offer.isSome = true) ∧
  (∀ o, ch.offer = some o → (ch.state = .handoverPending ∨ ch.state = .orphaned) ∧ ch.copy = some o.target) ∧
  (ch.offer = none → ch.saved = none) ∧
  (∀ r, ch.retune = some r → ∀ l, r.requester = some l → down l = false) ∧
  ch.rxq.length ≤ Config.rxDepth ∧
  (∀ e ∈ ch.rxq, e.due ≠ [] ∧ e.due.Nodup ∧ ∀ l ∈ e.due, ch.holder = some l ∨ ch.copy = some l)

/-- The roles of links on every channel are sound. -/
abbrev State.RolesSound (s : State) : Prop := ∀ c, (s.chan c).RolesSound s.isDown

/-! ### Link ports -/

/-- A link that is DOWN holds nothing (R132, R135). -/
abbrev LinkPort.Emptied (p : LinkPort) : Prop :=
  p.intake = [] ∧ p.responses = [] ∧ p.notices = [] ∧ p.lost = 0 ∧ p.tx = .idle ∧ p.jobs = [] ∧ p.ready = [] ∧
    p.watch = none ∧ p.watchData = none ∧ p.malformedRun = 0

/-- A job's result waits to be sent. -/
def Job.isReady (j : Job) : Bool :=
  match j.state with
  | .ready _ => true
  | .queued | .running | .sending _ => false

/-- A job's result is being sent. -/
def Job.isSending (j : Job) : Bool :=
  match j.state with
  | .sending _ => true
  | .queued | .running | .ready _ => false

/-- The job slot that the completion of the message being sent frees (R89). -/
def Tx.jobSlot : Tx → Option (Fin 4)
  | .sending (.eqOut _ _ _ entry) => entry
  | .sending (.response _) | .sending (.notice _) | .sending (.rxBlock _ _ _) | .sending (.watchData _) => none
  | .idle | .resyncPair => none

/-- Where an inbound stream can stand (R128 to R131): without word alignment, fewer than 64 ones in a row and no word
begun; inside a message, whose header is well formed, as many payload words to come as its length leaves, at least one;
at most 31 bits of a word. -/
def Framing.fits (part : List Bool) : Framing → Bool
  | .unaligned n => decide (n ≤ 63) && part.isEmpty
  | .payload h left got =>
    headerOk h && decide (1 ≤ left ∧ got.length + left = headerLength h ∧ part.length ≤ 31)
  | .header | .waiting | .extended => decide (part.length ≤ 31)

/-- The inbound stream of a port has word alignment exactly while the link is UP (R131, R132). -/
abbrev LinkPort.FramingSound (p : LinkPort) : Prop :=
  (p.framing.aligned = true ↔ p.state = .up) ∧ p.framing.fits p.part = true

/-- One link port within the limits the manual gives it: at most 4 commands and 4 jobs, each in a place of its own; at
most 16 notices; a malformed run below 4; a sound inbound stream; the silence timer running exactly while the link is
not DOWN and its setting is not 0; the ready list naming exactly the READY jobs; an EQ_OUT being sent that will free a
slot standing SENDING in it (R87, R89, R95, R130, R131, R133, R136, R147). -/
abbrev LinkPort.Sound (p : LinkPort) : Prop :=
  (p.intake.map Entry.place).Nodup ∧ (p.jobs.map Job.place).Nodup ∧ p.notices.length ≤ Config.noticeDepth ∧
  p.malformedRun ≤ 3 ∧ p.FramingSound ∧ p.setting ≤ 255 ∧ (p.timer = true ↔ p.state ≠ .down ∧ p.setting ≠ 0) ∧
  (p.state = .down → p.Emptied) ∧ p.ready.Nodup ∧
  (∀ k, k ∈ p.ready ↔ ∃ j ∈ p.jobs, j.place = k ∧ j.isReady = true) ∧
  (∀ k, p.tx.jobSlot = some k → ∃ j ∈ p.jobs, j.place = k ∧ j.isSending = true)

/-- While a reset clear runs the engine is IDLE and every job slot is empty (R96, R110). -/
abbrev State.ResetQuiet (s : State) : Prop := s.clear ≠ .none → s.engine = none ∧ ∀ l, (s.port l).jobs = []

/-- Every link port is within its limits, a reset clear is quiet, and the engine's job stands RUNNING in its slot, the
only job that does (R95, R98, R99). -/
abbrev State.PortsSound (s : State) : Prop :=
  (∀ l, (s.port l).Sound) ∧ s.ResetQuiet ∧
  (∀ l, ∀ j ∈ (s.port l).jobs, j.state = .running → (s.engine.map fun e => (e.link, e.place)) = some (l, some j.place)) ∧
  (∀ e, s.engine = some e → ∀ k, e.place = some k → ∃ j ∈ (s.port e.link).jobs, j.place = k ∧ j.state = .running)

/-! ### EQ contexts and jobs -/

/-- An EQ context within the ranges of R91. -/
abbrev EqCtx.Sound (q : EqCtx) : Prop :=
  q.taps.length = q.ne ∧ q.line.length = q.ne ∧ q.ne % 2 = 0 ∧ 8 ≤ q.ne ∧ q.ne ≤ 32 ∧
  (q.lv = 2 ∨ q.lv = 4 ∨ q.lv = 8 ∨ q.lv = 16) ∧ (1 ≤ q.a ∧ q.a ≤ 32767 / (q.lv - 1)) ∧
  (12 ≤ q.trainM ∧ q.trainM ≤ 30) ∧ (12 ≤ q.trackM ∧ q.trackM ≤ 30) ∧ q.peps.toNat ≤ 2 ^ 31

/-- The equalizer service is sound (R1, R91, R97, R98, R110): a FREE channel's record is that of Table 6; contexts are
within their ranges, none is on an OPENING channel, and their taps sum to the budget in use, at most 768; a QUEUED job
is from the holder of a channel with a context; a running job not marked CLOSED has its context; while a device clear
runs the engine is idle. -/
abbrev State.EqSound (s : State) : Prop :=
  (∀ c, (s.chan c).state = .free → s.chan c = Channel.free) ∧
  (∀ c, (s.chan c).state = .opening → (s.chan c).eq = none) ∧
  (∀ c, ∀ q, (s.chan c).eq = some q → q.Sound) ∧
  s.eqUsed = (allChans.map fun c => (s.chan c).eqTaps).sum ∧ s.eqUsed ≤ Config.eqBudget ∧
  (∀ l, ∀ j ∈ (s.port l).jobs, j.state = .queued →
    ∃ c, chanOf j.chan = some c ∧ (s.chan c).HeldBy l ∧ (s.chan c).eq.isSome = true) ∧
  (∀ e, s.engine = some e → e.closed = false → (s.chan e.chan).state.runs = true ∧ (s.chan e.chan).eq.isSome = true) ∧
  s.ResetQuiet

/-- A sound state: everything the manual says of every moment that this model states. -/
abbrev State.Sound (s : State) : Prop :=
  s.PoolSound ∧ s.AccountsSound ∧ s.ChannelsSound ∧ s.RolesSound ∧ s.PortsSound ∧ s.EqSound

end Sys2Proof.Machine
end

