-- ==== Sys2Proof/Certificates/Slice0/Obligations.lean ====
section
/-! DEFINITION. The statements for the provers. `s.Serves l k` says that link `l` is UP, no reset is in progress and
intake place `k` is free; `s.replies l k m code body` is `s` with command `m` entered, answered and heard on link `l`.
A conclusion `exec i s = .next t` with `t` written out is also the frame: what `t` does not change is as in `s`, every
address of the History Pool included. -/

open Sys2Proof Sys2Proof.Machine

/-! ### The queue, and the arrival of commands -/

/-- Derived; the queue is the model's (assumption 2). A step takes the command at the front of the queue, and with an
empty queue the block idles. -/
def Obligations.StepRunsTheFrontCommand : Prop :=
  (∀ (i : Instr) (rest : List Instr) (s : State),
    step { s with pending := i :: rest } = exec i { s with pending := rest }) ∧
  ∀ s : State, step { s with pending := [] } = .next { s with pending := [] }

/-- Derived; the queue is the model's (assumption 2). Every command and event completes in every state, and leaves the
queue as it is. -/
def Obligations.EveryCommandCompletesAndLeavesTheQueue : Prop :=
  ∀ (i : Instr) (s : State), ∃ t, exec i s = .next t ∧ t.pending = s.pending

/-- R2, R132, R136, R141, R143: what becomes of a command before its owner sees it. On a link that is not UP, or with the
pin asserted, it has no effect. With no free intake place it is dropped, counted and reported. While a reset clear runs,
all but DEVICE_STATUS are answered RESETTING. A channel field of 48 to 63 (COUNTERS: 48 to 62; the device commands: any
but 63) is answered BAD_CHANNEL. That COMMAND_DROPPED has channel field 63 is assumption 16, and that a DEVICE_STATUS with
another field is BAD_CHANNEL during a clear too is assumption 24 (DEDUCED both). -/
def Obligations.CommandsBeforeTheirOwner : Prop :=
  ∀ (i : Instr) (l : Link) (m : CmdMsg) (s : State), i.command = some (l, m) →
    (s.pin = true ∨ (s.port l).state ≠ .up → exec i s = .next s) ∧
    (s.pin = false → (s.port l).state = .up → (s.port l).freePlace = none →
      exec i s = .next (s.updPort l fun p =>
        { p.heard with commandsDropped := stick16 p.commandsDropped }.putNotice
          { chan := 63, body := .commandDropped m.kind m.chan m.tag })) ∧
    (∀ k, s.pin = false → (s.port l).state = .up → (s.port l).freePlace = some k → s.clear ≠ .none →
      m.kind ≠ .deviceStatus → exec i s = .next (s.replies l k m .resetting [])) ∧
    (∀ k, s.pin = false → (s.port l).state = .up → (s.port l).freePlace = some k → m.kind = .deviceStatus →
      m.chan ≠ 63 → exec i s = .next (s.replies l k m .badChannel [])) ∧
    (∀ k, s.Serves l k →
      (match m.kind with
        | .nop => False
        | .deviceStatus | .linkConfig | .resetDevice => m.chan ≠ 63
        | .counters => 48 ≤ m.chan.toNat ∧ m.chan ≠ 63
        | _ => 48 ≤ m.chan.toNat) →
      exec i s = .next (s.replies l k m .badChannel []))

/-- R4, R5, R42, R111: a holder command from a link that does not hold the channel is refused with no other effect: BUSY
while OPENING, else NOT_HOLDER. Only the commands that R107 holds (EQ_OPEN, EQ_CLOSE, EQ_SET, a CLEAR_TAPS naming EQ, a
POKE of words 224 to 287) need a channel whose job the engine does not run. -/
def Obligations.HolderCommandsFromOthersAreRefused : Prop :=
  ∀ (i : Instr) (l : Link) (k : Fin 4) (c : Chan) (tag : Tag) (kind : CmdKind) (ws : List Word) (s : State),
    i.command = some (l, .on kind c tag ws) → s.Serves l k → ¬ (s.chan c).HeldBy l →
    (kind = .eqOpen ∨ kind = .eqClose ∨ kind = .eqSet ∨
      (kind = .clearTaps ∧ (ws.getD 0 0).getLsbD 2 = true) ∨
      (kind = .poke ∧ 224 ≤ (ws.getD 0 0).toNat % 65536 ∧ (ws.getD 0 0).toNat % 65536 ≤ 287) →
      ∀ j, s.engine = some j → j.chan ≠ c) →
    kind ∈ [.setNear, .setFar, .setAdapt, .clearTaps, .setPlayout, .setLine, .setNotices, .setShadow, .handover,
      .eqOpen, .eqClose, .eqSet, .poke] →
    exec i s = .next (s.replies l k (.on kind c tag ws)
      (if (s.chan c).state = .opening then .busy else .notHolder) [])

/-- R107: an EQ_OPEN, EQ_CLOSE, EQ_SET, a CLEAR_TAPS naming EQ, or a POKE of words 224 to 287, for a channel whose job the
engine runs, waits in its intake entry behind the job, whoever sent it, with no other effect. -/
def Obligations.EqualizerCommandsWaitForTheRunningJob : Prop :=
  ∀ (i : Instr) (l : Link) (k : Fin 4) (c : Chan) (tag : Tag) (kind : CmdKind) (ws : List Word) (j : RunJob) (s : State),
    i.command = some (l, .on kind c tag ws) → s.Serves l k → s.engine = some j → j.chan = c →
    (kind = .eqOpen ∨ kind = .eqClose ∨ kind = .eqSet ∨
      (kind = .clearTaps ∧ (ws.getD 0 0).getLsbD 2 = true) ∨
      (kind = .poke ∧ 224 ≤ (ws.getD 0 0).toNat % 65536 ∧ (ws.getD 0 0).toNat % 65536 ≤ 287)) →
    exec i s = .next (s.waits l k (.on kind c tag ws))

/-! ### Words and framing (R129 to R131, Tables 46 to 48) -/

/-- Decoding a message's words gives the message back, for every well-formed command and data message with every operand
(Tables 46 to 48, section 11-1, section 11-2). R128, R161, R162, Tables 46, 47, 49 and 50: the words of every message the
part sends, with every code number; what a port has on its outbound stream, each word least significant bit first. -/
def Obligations.DecodingUndoesEncoding : Prop :=
  (∀ i : Instr, i.isMessage = true → WellFormed i = true → decodeMessage i.link i.words = some i) ∧
  (∀ (v lo len : Nat), place v lo len = BitVec.ofNat 32 (v % 2 ^ len * 2 ^ lo) ∧
    (∀ b, placeBit b lo = place (if b then 1 else 0) lo 1)) ∧
  (∀ (kind len : Nat) (ch : ChanField) (tag : Tag), kind < 64 → len < 64 →
    let h := headerWord kind ch len tag
    h.toNat % 64 = kind ∧ h.extractLsb' 6 6 = ch ∧ h.toNat / 4096 % 64 = len ∧ h.extractLsb' 18 12 = tag ∧
      h.extractLsb' 30 2 = 0) ∧
  (∀ (kind : Nat) (ch : ChanField) (tag : Tag) (ws : List Word),
    messageOf kind ch tag ws = headerWord kind ch ws.length tag :: ws) ∧
  (∀ (r : Response), (OutMsg.response r).words =
    messageOf 48 r.chan r.tag ((place (kindCode r.kind) 0 6 ||| place (codeNumber r.code) 8 8) :: r.body)) ∧
  (∀ (n : Notice), (OutMsg.notice n).words = messageOf 49 n.chan 0 n.body.words) ∧
  (∀ (c : Chan) (q : Seq) (xs : List Sample), xs.length = 16 →
    ∃ ws, (OutMsg.rxBlock c q xs).words = messageOf 50 (fieldOfChan c) 0 (q.setWidth 32 :: ws) ∧ ws.length = 8 ∧
      ∀ i < 16, (ws.getD (i / 2) 0).extractLsb' (16 * (i % 2)) 16 = xs.getD i 0) ∧
  (∀ (tag : Tag) (ch : ChanField) (r : EqResult) (entry : Option (Fin 4)),
    (OutMsg.eqOut tag ch r entry).words = messageOf 51 ch tag
      ((place (eqStatusNumber r.status) 0 8 ||| place r.outputs.length 8 4) ::
        r.outputs.flatMap (fun o => [o.z.1.setWidth 32 ||| place o.z.2.toNat 16 16,
          place o.reIndex 0 8 ||| place o.imIndex 8 8]) ++ [r.peps])) ∧
  (∀ (d : WatchData), (OutMsg.watchData d).words = messageOf 52 (fieldOfChan d.chan) 0
    [place d.index 0 16 ||| place d.rxSeq.toNat 16 16, d.word, d.py, d.pe, d.gears]) ∧
  (∀ (near far : Bool) (q next : Seq) (d w : Nat) (h : Option Link) (t : Option Link) (l : Link) (why : Reason) (g : Word)
      (kind : CmdKind) (ch : ChanField) (tag : Tag) (n : BitVec 16),
    let set : Word := placeBit near 0 ||| placeBit far 1
    let link (x : Option Link) : Nat := match x with | some i => i.val | none => 255
    let e : Word := q.setWidth 32 ||| place next.toNat 16 16
    let reason (first : Nat) : Word := place first 0 8 ||| place (reasonNumber why) 8 8
    (NoticeBody.converged near far).words = [1, set] ∧ (NoticeBody.diverged near far).words = [2, set] ∧
    (NoticeBody.underrun q).words = [3, q.setWidth 32] ∧
    (NoticeBody.playoutLow d w).words = [4, place d 0 8 ||| place w 8 8] ∧
    (NoticeBody.playoutRecovered d w).words = [5, place d 0 8 ||| place w 8 8] ∧
    (NoticeBody.rxOverrun q).words = [6, q.setWidth 32] ∧
    (NoticeBody.offer h w q next).words = [7, place (link h) 0 8 ||| place w 8 8, e] ∧
    (NoticeBody.offerWithdrawn why).words = [reason 8] ∧
    (NoticeBody.handoverDone l).words = [9, BitVec.ofNat 32 l.val] ∧
    (NoticeBody.adopted l g).words = [10, BitVec.ofNat 32 l.val, g] ∧ NoticeBody.highwayLocked.words = [11] ∧
    NoticeBody.highwayLost.words = [12] ∧ NoticeBody.resetDone.words = [13] ∧
    (NoticeBody.eqSkipped tag).words = [14, tag.setWidth 32] ∧
    (NoticeBody.commandDropped kind ch tag).words =
      [15, place (kindCode kind) 0 6 ||| place ch.toNat 8 6 ||| place tag.toNat 16 12] ∧
    NoticeBody.watchEnded.words = [16] ∧ (NoticeBody.noticesLost n).words = [17, n.setWidth 32] ∧
    (NoticeBody.orphaned h t q next).words = [18, place (link h) 0 8 ||| place (link t) 8 8, e] ∧
    (NoticeBody.handoverFailed l why).words = [reason 19, BitVec.ofNat 32 l.val]) ∧
  ([CmdKind.openChannel, .closeChannel, .setNear, .setFar, .setAdapt, .clearTaps, .setPlayout, .setLine, .setNotices,
      .setShadow, .handover, .accept, .decline, .adopt, .eqOpen, .eqClose, .eqSet, .peek, .poke, .status, .counters,
      .deviceStatus, .watch, .nop, .linkConfig, .resetDevice].map kindCode = (List.range 26).map (· + 1) ∧
    [Code.ok, .superseded, .closed].map codeNumber = [0, 1, 2] ∧
    [Code.badChannel, .badValue, .notFree, .slotTaken, .noBudget, .noHistory, .noEqSpace, .notHolder, .notOrphaned,
      .notOffered, .busy, .inUse, .readOnly, .resetting, .linkDown].map codeNumber = (List.range 15).map (· + 16) ∧
    [Reason.closed, .expired, .adopted, .declined, .targetDown].map reasonNumber = [1, 2, 3, 4, 5] ∧
    [EqStatus.ok, .noEq, .notHolder, .closed].map eqStatusNumber = [0, 1, 2, 3]) ∧
  (∀ (p : LinkPort) (m : OutMsg) (w : Word),
    (p.state = .down → p.outboundWords = [0]) ∧
    (p.state ≠ .down → p.tx = .resyncPair → p.outboundWords = [0xFFFFFFFF, 0xFFFFFFFF]) ∧
    (p.state ≠ .down → p.tx = .sending m → p.outboundWords = m.words) ∧
    (p.state ≠ .down → p.tx = .idle → p.outboundWords = [0]) ∧
    p.outboundBits = p.outboundWords.flatMap wordBits ∧ (wordBits w).length = 32 ∧
    ∀ i < 32, (wordBits w)[i]? = some (w.getLsbD i))

/-- R129: the framing of an aligned stream of words on a link delivers exactly the messages sent, in order, idle words
between them ignored: for messages all of link `l`, each followed by some number of idle words. R129, R130, R131 at a
header position of an UP link: a malformed header is discarded and its payload not skipped; two all-ones words are a
RESYNC pair and further ones extend it; a single one is a malformed header, the next word judged afresh. In DOWN and
OUT_OF_STEP the 64th consecutive 1 bit is the pair. R128: the words come least significant bit first. A bit that arrives
moves the framing state of its port, and what it completes is taken at once; a link that then leaves UP keeps no word
alignment; while the pin is asserted nothing arrives. That the table's commands are whole messages, beside this state, is
assumption 22 (DESIGN CHOICE), from where the 1 bits count assumption 28. -/
def Obligations.FramingDeliversTheMessagesSent : Prop :=
  (∀ (l : Link) (sent : List (Instr × Nat)),
    (∀ p ∈ sent, p.1.isMessage = true ∧ WellFormed p.1 = true ∧ p.1.link = l) →
    Framing.words l .header (sent.flatMap fun p => p.1.words ++ List.replicate p.2 0) = (.header, sent.map Prod.fst)) ∧
  (∀ (l : Link) (w : Word) (n : Nat),
    (w ≠ 0 → w ≠ 0xFFFFFFFF → headerOk w = false → Framing.word l .header w = (.header, [.malformedHeader l])) ∧
    Framing.words l .header (0xFFFFFFFF :: 0xFFFFFFFF :: List.replicate n 0xFFFFFFFF) = (.extended, [.resync l]) ∧
    Framing.word l .extended w = (if w = 0xFFFFFFFF then (.extended, []) else Framing.word l .header w) ∧
    (w ≠ 0xFFFFFFFF → Framing.words l .header [0xFFFFFFFF, w] =
      ((Framing.word l .header w).1, .malformedHeader l :: (Framing.word l .header w).2)) ∧
    (n ≤ 63 → Framing.bit l (.unaligned n) [] true =
      (if n = 63 then (.extended, [], [.resync l]) else (.unaligned (n + 1), [], []))) ∧
    Framing.bit l (.unaligned n) [] false = (.unaligned 0, [], [])) ∧
  (∀ (l : Link) (f : Framing) (ws : List Word), f.aligned = true →
    Framing.bits l f [] (ws.flatMap fun w => (List.range 32).map w.getLsbD) =
      ((Framing.words l f ws).1, [], (Framing.words l f ws).2)) ∧
  (∀ (l : Link) (b : Bool) (s : State),
    let p := s.port l
    let r := Framing.bit l p.framing p.part b
    let stands (t : State) : State := t.updPort l fun q => { q with framing := r.1, part := r.2.1 }
    (s.pin = true → s.receiveBit l b = s) ∧
    (s.pin = false → r.2.2 = [] → (p.framing.aligned = true ↔ p.state = .up) → s.receiveBit l b = stands s) ∧
    (∀ i t, s.pin = false → r.2.2 = [i] → exec i s = .next t →
      ((t.port l).state = .up → s.receiveBit l b = stands t) ∧
      ((t.port l).state ≠ .up → r.1.aligned = true → s.receiveBit l b = t)) ∧
    (∀ i j t u, s.pin = false → r.2.2 = [i, j] → exec i s = .next t → exec j t = .next u →
      ((u.port l).state = .up → s.receiveBit l b = stands u) ∧
      ((u.port l).state ≠ .up → s.receiveBit l b = u)))

/-- R136, R138: the completion of an operation answers the one IN_PROGRESS command of its kind and channel: its entry
becomes ANSWERED and its response, with the command's own tag, is the newest; nothing else of the port changes. A port
whose intake no longer holds the command is unchanged. -/
def Obligations.CompletionsAnswerTheirCommand : Prop :=
  ∀ (p : LinkPort) (kind : CmdKind) (ch : ChanField) (code : Code) (body : List Word),
    (p.intake.map Entry.place).Nodup →
    (∀ e, p.inProgress kind ch = some e →
      p.completes kind ch code body =
        { p with
          intake := p.intake.map fun x => if x = e then { x with state := .answered } else x
          responses := p.responses ++
            [{ kind := kind, chan := ch, tag := e.msg.tag, code := code, body := body, entry := some e.place }] }) ∧
    ((∀ e ∈ p.intake, ¬ (e.msg.kind = kind ∧ e.msg.chan = ch ∧ e.state = .inProgress)) →
      p.completes kind ch code body = p)

/-! ### Channel contexts (chapter 1) -/

/-- R6: the effective sizes of an OPEN, the pages and the cost they ask for, and the values of absent parts. -/
def Obligations.OpenSizesAreMadeEffective : Prop :=
  (∀ (nn nf d : Nat),
    let z := effectiveSizes nn nf d
    (z.nn % 8 = 0 ∧ (nn ≤ 64 → nn ≤ z.nn ∧ z.nn < nn + 8) ∧ (64 < nn → z.nn = 64)) ∧
    (z.nf % 16 = 0 ∧ (nf ≤ 128 → nf ≤ z.nf ∧ z.nf < nf + 16) ∧ (128 < nf → z.nf = 128)) ∧
    z.d = (if z.nf = 0 then 0 else min d (10240 - z.nf)) ∧ z.cost = z.nn + z.nf ∧
    (1 ≤ z.pageCount ∧ z.pageCount ≤ 40 ∧ max z.nn (z.d + z.nf) ≤ 256 * z.pageCount ∧
      (1 < z.pageCount → 256 * (z.pageCount - 1) < max z.nn (z.d + z.nf)))) ∧
  (∀ (c : Chan) (tag : Tag) (w1 w2 w3 : Word),
    openSizes (.on .openChannel c tag [w1]) = { nn := 32, nf := 0, d := 0 } ∧
    openSizes (.on .openChannel c tag [w1, w2]) =
      effectiveSizes (w2.toNat % 256) (w2.toNat / 256 % 256) (w2.toNat / 65536) ∧
    openSizes (.on .openChannel c tag [w1, w2, w3]) = openSizes (.on .openChannel c tag [w1, w2]) ∧
    loopbackOf (fieldAt ((CmdMsg.on .openChannel c tag [w1, w2]).word 3) 0 2) = some .noLoop ∧
    sampleAt ((CmdMsg.on .openChannel c tag [w1, w2]).word 3) 16 = 0 ∧
    (CmdMsg.on .openChannel c tag [w1]).word 3 = 0)

/-- R7: the checks of an OPEN in their order, the first that fails giving the refusal, with no other effect. -/
def Obligations.OpenIsRefusedByTheFirstFailingCheck : Prop :=
  ∀ (l : Link) (k : Fin 4) (c : Chan) (tag : Tag) (p : OpenPayload) (s : State) (code : Code),
    let m := CmdMsg.on .openChannel c tag p.words
    let slot := (m.word 1).toNat % 256
    let z := openSizes m
    s.Serves l k →
    (if (s.chan c).state ≠ .free then some Code.notFree
     else if 63 < slot ∨ (m.word 3).toNat % 4 = 3 then some .badValue
     else if (s.slotMap.toList.getD slot none).isSome = true then some .slotTaken
     else if 6144 < s.echoUsed + z.cost then some .noBudget
     else if s.freeList.length < z.pageCount then some .noHistory
     else none) = some code →
    exec (.openChannel l (fieldOfChan c) tag p) s = .next (s.replies l k m code [])

/-- R8, R19: an OPEN that passes every check reserves slot, budget and the pages at the head of the free list, makes the
requester the holder, and is IN_PROGRESS with its channel OPENING. That the record already has its lists of taps, all 0,
is assumption 19 (DEDUCED). -/
def Obligations.OpenReservesAndStartsTheClear : Prop :=
  ∀ (l : Link) (k : Fin 4) (c : Chan) (tag : Tag) (p : OpenPayload) (slot : Slot) (lb : Loopback) (s : State),
    let m := CmdMsg.on .openChannel c tag p.words
    let z := openSizes m
    s.Serves l k → (s.chan c).state = .free → (m.word 1).toNat % 256 = slot.val →
    loopbackOf ((m.word 3).toNat % 4) = some lb → s.slotMap[slot.val] = none → s.echoUsed + z.cost ≤ 6144 →
    z.pageCount ≤ s.freeList.length →
    exec (.openChannel l (fieldOfChan c) tag p) s = .next
      { (s.setChan c
          { Channel.free with
            state := .opening, holder := some l, slot := some slot, loopback := lb, idle := sampleAt (m.word 3) 16
            nn := z.nn, nf := z.nf, d := z.d, charge := z.cost, pages := s.freeList.take z.pageCount
            near := { Filter.free with taps := List.replicate z.nn 0 }
            far := { Filter.free with taps := List.replicate z.nf 0 } }).begins l k m with
        slotMap := s.slotMap.set slot.val (some c), echoUsed := s.echoUsed + z.cost
        freeList := s.freeList.drop z.pageCount }

/-- R9, R10: the context clear of an OPENING channel that still has its holder leaves the start values of Table 9,
zeroes its pages and no other sample, makes it ACTIVE and answers the OPEN. R11, R69: the context clear of an OPENING
channel whose requester was lost leaves it ORPHANED with its filters held, TRAIN saved as their resume gear; every link
that is not DOWN is told ORPHANED, and no response is placed. -/
def Obligations.ContextClearStartsTheCall : Prop :=
  (∀ (c : Chan) (h : Link) (s : State),
    let ch := s.chan c
    let start (n : Nat) : Gear := if n = 0 then .off else .train
    ch.state = .opening → s.clear = .none → ch.holder = some h →
    ∃ pool, exec (.contextClearComplete c) s = .next
        { (s.setChan c
            { Channel.free with
              state := .active, holder := some h, slot := ch.slot, loopback := ch.loopback, idle := ch.idle
              nn := ch.nn, nf := ch.nf, d := ch.d, charge := ch.charge, pages := ch.pages
              near := { taps := List.replicate ch.nn 0, gear := start ch.nn, resume := start ch.nn, trainM := 14,
                        trackM := 18, leak := 0 }
              far := { taps := List.replicate ch.nf 0, gear := start ch.nf, resume := start ch.nf, trainM := 14,
                       trackM := 18, leak := 0 } }).updPort h
            (·.completes .openChannel (fieldOfChan c) .ok
              [place (slotByte ch.slot) 0 8, sizesWord ch.nn ch.nf ch.d, lineWord ch.loopback ch.idle,
               place ch.pages.length 0 8]) with
          pool := pool } ∧
      (s.pool.wf = true → ∀ a, pool.read a = if a / 256 ∈ ch.pages.map Fin.val then 0 else s.pool.read a)) ∧
  (∀ (c : Chan) (s : State),
    let ch := s.chan c
    let start (n : Nat) : Gear := if n = 0 then .off else .train
    let hold (n : Nat) : Gear := if n = 0 then .off else .hold
    ch.state = .opening → s.clear = .none → ch.holder = none →
    ∃ t, exec (.contextClearComplete c) s = .next t ∧
      { t with links := s.links, pool := s.pool } =
        s.setChan c
          { Channel.free with
            state := .orphaned, slot := ch.slot, loopback := ch.loopback, idle := ch.idle
            nn := ch.nn, nf := ch.nf, d := ch.d, charge := ch.charge, pages := ch.pages
            near := { taps := List.replicate ch.nn 0, gear := hold ch.nn, resume := start ch.nn, trainM := 14,
                      trackM := 18, leak := 0 }
            far := { taps := List.replicate ch.nf 0, gear := hold ch.nf, resume := start ch.nf, trainM := 14,
                     trackM := 18, leak := 0 } } ∧
      (∀ i, t.port i = (s.port i).told { chan := fieldOfChan c, body := .orphaned none none 0 0 }) ∧
      (s.pool.wf = true → ∀ a, t.pool.read a = if a / 256 ∈ ch.pages.map Fin.val then 0 else s.pool.read a))

/-- R13, R14, R16, R17, R20, R108, R160: a CLOSE by the holder, or by any link of an ORPHANED channel, frees the channel
in one action. Per port, in order: a pending retune requested there is answered CLOSED, a standing offer to it is
withdrawn, its watch on the channel ends, its queued jobs of the channel have the result CLOSED, and the closer is
answered OK. The other channels and every sample of the History Pool stay. R13: a CLOSE of a FREE channel or by a link
that may not close it is refused: BUSY while OPENING, else NOT_HOLDER. The order in which the CLOSED results of one link
become ready is open in the manual (assumption 5), and the counter that numbers it is the model's (assumption 8, DESIGN
CHOICE). -/
def Obligations.CloseFreesTheChannel : Prop :=
  (∀ (l : Link) (k : Fin 4) (c : Chan) (tag : Tag) (s : State),
    let ch := s.chan c
    s.Serves l k → (ch.HeldBy l ∨ ch.state = .orphaned) →
    ∃ t, exec (.closeChannel l (fieldOfChan c) tag) s = .next t ∧
      { t with links := s.links } =
        { s.setChan c Channel.free with
          slotMap := match ch.slot with | some j => s.slotMap.set j.val none | none => s.slotMap
          freeList := s.freeList ++ ch.pages
          echoUsed := s.echoUsed - ch.charge
          eqUsed := s.eqUsed - (match ch.eq with | some q => q.ne | none => 0)
          engine := s.engine.map fun j => if j.chan = c then { j with closed := true } else j
          freeCount := s.freeCount + 1 } ∧
      ∀ i, t.port i =
        let p := s.port i
        let p := if (ch.retune.bind Retune.requester) = some i then p.completes .setFar (fieldOfChan c) .closed [] else p
        let p := if (ch.offer.map Offer.target) = some i then
          p.told { chan := fieldOfChan c, body := .offerWithdrawn .closed } else p
        let p := if (p.watch.map Watch.chan) = some c then
          { p with watch := none, watchData := none }.told { chan := fieldOfChan c, body := .watchEnded } else p
        let p := p.finishQueued c .closed s.freeCount
        if i = l then p.replied k (.on .closeChannel c tag []) .ok [] else p) ∧
  (∀ (l : Link) (k : Fin 4) (c : Chan) (tag : Tag) (s : State),
    s.Serves l k → ¬ (s.chan c).HeldBy l → (s.chan c).state ≠ .orphaned →
    exec (.closeChannel l (fieldOfChan c) tag) s = .next (s.replies l k (.on .closeChannel c tag [])
      (if (s.chan c).state = .opening then .busy else .notHolder) []))

/-- R15: a SET_NEAR that exceeds the echo budget is refused; any other keeps the near taps that remain, extends them with
0, recharges the channel and sets the NEAR gear when the filter gains its first or loses its last tap. -/
def Obligations.SetNearResizesTheNearFilter : Prop :=
  ∀ (l : Link) (k : Fin 4) (c : Chan) (tag : Tag) (w : Word) (s : State),
    let ch := s.chan c
    let m := CmdMsg.on .setNear c tag [w]
    let nn := min 64 ((w.toNat % 256 + 7) / 8 * 8)
    let charge := nn + max ch.nf ((ch.retune.map Retune.nf).getD 0)
    s.Serves l k → ch.HeldBy l →
    (6144 < s.echoUsed - ch.charge + charge →
      exec (.setNear l (fieldOfChan c) tag w) s = .next (s.replies l k m .noBudget [])) ∧
    (s.echoUsed - ch.charge + charge ≤ 6144 →
      exec (.setNear l (fieldOfChan c) tag w) s = .next
        { (s.setChan c
            { ch with
              nn := nn, charge := charge
              near := { ch.near with
                        taps := (List.range nn).map fun i => ch.near.taps.getD i 0
                        gear := if nn = 0 then .off else if ch.nn = 0 then .train else ch.near.gear } }).replies l k m .ok
            [place nn 0 8 ||| place charge 16 16] with
          echoUsed := s.echoUsed - ch.charge + charge })

/-! ### Gears and bulk delay (chapter 4) -/

/-- R71, R72, R73: a SET_FAR that fits supersedes a pending retune, whose requester is answered SUPERSEDED, charges the
larger cost, takes the extra pages the new sizes ask for from the head of the free list, behind which the superseded
retune's pages stand, and is IN_PROGRESS. The applied sizes, taps, gears and history stay. R72: a SET_FAR is checked
against the shared resources as if no retune were pending, the budget first and the free pages second; refused, it has
no other effect, and a pending retune stays. -/
def Obligations.SetFarReservesItsRetune : Prop :=
  (∀ (l : Link) (k : Fin 4) (c : Chan) (tag : Tag) (w : Word) (s : State),
    let ch := s.chan c
    let z : Sizes := { effectiveSizes 0 (w.toNat % 256) (w.toNat / 65536) with nn := ch.nn }
    let reserved := (ch.retune.map Retune.reserved).getD 0
    let serving := ch.pages.length - reserved
    let extra := z.pageCount - serving
    let charge := max (ch.nn + ch.nf) (ch.nn + z.nf)
    let free := s.freeList ++ ch.pages.drop serving
    s.Serves l k → ch.HeldBy l → s.echoUsed - ch.charge + charge ≤ 6144 → extra ≤ s.freeList.length + reserved →
    exec (.setFar l (fieldOfChan c) tag w) s = .next
      { ((match ch.retune.bind Retune.requester with
          | some r => s.updPort r (·.completes .setFar (fieldOfChan c) .superseded [])
          | none => s).setChan c
          { ch with
            pages := ch.pages.take serving ++ free.take extra, charge := charge
            retune := some { nf := z.nf, d := z.d, requester := some l, tag := tag, reserved := extra } }).begins l k
          (.on .setFar c tag [w]) with
        echoUsed := s.echoUsed - ch.charge + charge, freeList := free.drop extra }) ∧
  (∀ (l : Link) (k : Fin 4) (c : Chan) (tag : Tag) (w : Word) (s : State),
    let ch := s.chan c
    let z : Sizes := { effectiveSizes 0 (w.toNat % 256) (w.toNat / 65536) with nn := ch.nn }
    let reserved := (ch.retune.map Retune.reserved).getD 0
    let used := s.echoUsed - ch.charge + max (ch.nn + ch.nf) (ch.nn + z.nf)
    s.Serves l k → ch.HeldBy l →
    (6144 < used → exec (.setFar l (fieldOfChan c) tag w) s = .next (s.replies l k (.on .setFar c tag [w]) .noBudget [])) ∧
    (used ≤ 6144 → s.freeList.length + reserved < z.pageCount - (ch.pages.length - reserved) →
      exec (.setFar l (fieldOfChan c) tag w) s = .next (s.replies l k (.on .setFar c tag [w]) .noHistory [])))

/-- R61, R62, R63: a SET_ADAPT naming no group, or a gear or set member that does not exist in a present group, is
refused BAD_VALUE. Any other replaces the settings of the groups present, each value made effective, a filter without
taps staying OFF, and is answered with all the settings. -/
def Obligations.SetAdaptReplacesThePresentGroups : Prop :=
  ∀ (l : Link) (k : Fin 4) (c : Chan) (tag : Tag) (w1 w2 w3 w4 : Word) (s : State),
    let ch := s.chan c
    let m := CmdMsg.on .setAdapt c tag [w1, w2, w3, w4]
    let bad := w1.toNat % 8 = 0 ∨ (w1.getLsbD 0 = true ∧ 3 < w2.toNat % 8) ∨ (w1.getLsbD 1 = true ∧ 3 < w3.toNat % 8) ∨
      (w1.getLsbD 2 = true ∧ 3 < w1.toNat / 16 % 16)
    let exponent (n : Nat) : Nat := max 12 (min 30 n)
    let group (f : Filter) (w : Word) : Filter :=
      { f with
        gear := if f.taps = [] then .off else
          match w.toNat % 8 with | 0 => .off | 1 => .train | 2 => .track | _ => .hold
        trainM := exponent (w.toNat / 256 % 256), trackM := exponent (w.toNat / 65536 % 256)
        leak := if w.toNat / 16777216 = 0 then 0 else exponent (w.toNat / 16777216) }
    let supervised := w1.getLsbD 2
    let new : Channel :=
      { ch with
        near := if w1.getLsbD 0 then group ch.near w2 else ch.near
        far := if w1.getLsbD 1 then group ch.far w3 else ch.far
        autoNear := if supervised then w1.getLsbD 4 else ch.autoNear
        autoFar := if supervised then w1.getLsbD 5 else ch.autoFar
        c := if supervised then max 1 (min 15 (w1.toNat / 256 % 256)) else ch.c
        convBlocks := if supervised then max 1 (w1.toNat / 65536 % 256) else ch.convBlocks
        divBlocks := if supervised then max 1 (w1.toNat / 16777216) else ch.divBlocks
        floor := if supervised then min 1073741823 w4.toNat else ch.floor }
    let settings (f : Filter) : Word :=
      place f.gear.code 0 3 ||| place f.trainM 8 8 ||| place f.trackM 16 8 ||| place f.leak 24 8
    s.Serves l k → ch.HeldBy l →
    (bad → exec (.setAdapt l (fieldOfChan c) tag w1 w2 w3 w4) s = .next (s.replies l k m .badValue [])) ∧
    (¬ bad → exec (.setAdapt l (fieldOfChan c) tag w1 w2 w3 w4) s =
      .next ((s.setChan c new).replies l k m .ok
        [place 7 0 3 ||| placeBit new.autoNear 4 ||| placeBit new.autoFar 5 ||| place new.c 8 8
            ||| place new.convBlocks 16 8 ||| place new.divBlocks 24 8,
          settings new.near, settings new.far, BitVec.ofNat 32 new.floor]))

/-- R56, R57: a CLEAR_TAPS with an empty set, with a member that is no filter, or naming EQ on a channel without EQ
context is refused BAD_VALUE. Any other, where the engine runs no job of the channel or EQ is not named, zeroes the taps
of the named echo filters, gives a named EQ context the unity center tap, and zeroes both run counts. -/
def Obligations.ClearTapsZeroesTheNamedFilters : Prop :=
  ∀ (l : Link) (k : Fin 4) (c : Chan) (tag : Tag) (w : Word) (s : State),
    let ch := s.chan c
    let m := CmdMsg.on .clearTaps c tag [w]
    let set := w.toNat % 256
    let bad := set = 0 ∨ 8 ≤ set ∨ (w.getLsbD 2 = true ∧ ch.eq = none)
    s.Serves l k → ch.HeldBy l → (w.getLsbD 2 = true → s.jobRuns c = false) →
    (bad → exec (.clearTaps l (fieldOfChan c) tag w) s = .next (s.replies l k m .badValue [])) ∧
    (¬ bad → exec (.clearTaps l (fieldOfChan c) tag w) s =
      .next ((s.setChan c
        { ch with
          near := if w.getLsbD 0 then { ch.near with taps := ch.near.taps.map fun _ => 0 } else ch.near
          far := if w.getLsbD 1 then { ch.far with taps := ch.far.taps.map fun _ => 0 } else ch.far
          eq := if w.getLsbD 2 then
              ch.eq.map fun q =>
                { q with taps := (List.range q.ne).map fun i => if i = q.ne / 2 then (0x400000, 0) else (0, 0) }
            else ch.eq
          convRun := 0, divRun := 0 }).replies l k m .ok [BitVec.ofNat 32 set]))

/-! ### Settings (R42, R43, R146) -/

/-- R42, R43, R146: SET_PLAYOUT, SET_LINE and SET_NOTICES from the holder store the clamped settings and answer with the
effective values; a fill policy, loopback mode or notice kind that does not exist is refused BAD_VALUE. -/
def Obligations.SettingsOfPlayoutLineAndNoticesAreStored : Prop :=
  ∀ (l : Link) (k : Fin 4) (c : Chan) (tag : Tag) (w : Word) (s : State),
    let ch := s.chan c
    let depth := max 1 (min 12 (w.toNat % 256))
    let low := min 15 (w.toNat / 256 % 256)
    s.Serves l k → ch.HeldBy l →
    (∀ fill : Fill, w.toNat / 65536 % 4 = fill.code →
      exec (.setPlayout l (fieldOfChan c) tag w) s =
        .next ((s.setChan c
          { ch with play := { ch.play with startDepth := depth, lowWater := low, fill := fill } }).replies l k
            (.on .setPlayout c tag [w]) .ok [place depth 0 8 ||| place low 8 8 ||| place fill.code 16 2])) ∧
    (2 ≤ w.toNat / 65536 % 4 → exec (.setPlayout l (fieldOfChan c) tag w) s =
      .next (s.replies l k (.on .setPlayout c tag [w]) .badValue [])) ∧
    (∀ lb : Loopback, w.toNat % 4 = lb.code →
      exec (.setLine l (fieldOfChan c) tag w) s =
        .next ((s.setChan c { ch with loopback := lb, idle := w.extractLsb' 16 16 }).replies l k
          (.on .setLine c tag [w]) .ok [place lb.code 0 2 ||| place (w.toNat / 65536) 16 16])) ∧
    (w.toNat % 4 = 3 → exec (.setLine l (fieldOfChan c) tag w) s =
      .next (s.replies l k (.on .setLine c tag [w]) .badValue [])) ∧
    (w.toNat % 256 < 64 → exec (.setNotices l (fieldOfChan c) tag w) s =
      .next ((s.setChan c { ch with mask := w.setWidth 6 }).replies l k (.on .setNotices c tag [w]) .ok
        [BitVec.ofNat 32 (w.toNat % 256)])) ∧
    (64 ≤ w.toNat % 256 → exec (.setNotices l (fieldOfChan c) tag w) s =
      .next (s.replies l k (.on .setNotices c tag [w]) .badValue []))

/-! ### Holders and handover (chapter 7) -/

/-- R84, R113: a SET_SHADOW from the holder sets the copy destination, only links that are holder or copy destination
then staying in the pending sets, or, of a HANDOVER_PENDING channel, the saved shadow. Naming the holder or no link is refused
BAD_VALUE, a DOWN link LINK_DOWN. -/
def Obligations.SetShadowNamesTheCopyDestination : Prop :=
  ∀ (l : Link) (k : Fin 4) (c : Chan) (tag : Tag) (w : Word) (s : State),
    let ch := s.chan c
    let m := CmdMsg.on .setShadow c tag [w]
    let n := w.toNat % 256
    s.Serves l k → ch.HeldBy l →
    (n = l.val ∨ (4 ≤ n ∧ n ≠ 255) → exec (.setShadow l (fieldOfChan c) tag w) s = .next (s.replies l k m .badValue [])) ∧
    (∀ i : Link, n = i.val → i ≠ l → (s.port i).state = .down →
      exec (.setShadow l (fieldOfChan c) tag w) s = .next (s.replies l k m .linkDown [])) ∧
    (∀ i : Option Link, n = (match i with | some j => j.val | none => 255) →
      (∀ j, i = some j → j ≠ l ∧ (s.port j).state ≠ .down) →
      let copy := if ch.state = .handoverPending then ch.copy else i
      let saved := if ch.state = .handoverPending then i else ch.saved
      exec (.setShadow l (fieldOfChan c) tag w) s =
        .next ((s.setChan c
          { ch with
            copy := copy, saved := saved
            rxq := if ch.state = .handoverPending then ch.rxq else
              (ch.rxq.map fun e =>
                { e with due := e.due.filter fun j => decide (ch.holder = some j ∨ copy = some j) }).filter
                  fun e => decide (e.due ≠ []) }).replies l k m .ok
          [place (linkByte copy) 0 8 ||| place (linkByte saved) 8 8]))

/-- R117, R118: a HANDOVER of an ACTIVE channel to another link that is not DOWN makes that link the offer's target and
the copy destination, saves the old copy destination, makes the channel HANDOVER_PENDING, and places an OFFER for it.
R117: the checks of a HANDOVER in their order, the first that fails giving the refusal, with no other effect. -/
def Obligations.HandoverOffersTheChannel : Prop :=
  (∀ (l i : Link) (k : Fin 4) (c : Chan) (tag : Tag) (p : HandoverPayload) (s : State),
    let ch := s.chan c
    let m := CmdMsg.on .handover c tag p.words
    let window := match p with | .target _ => 20 | .window _ w => max 1 (min 255 (w.toNat % 65536))
    s.Serves l k → ch.state = .active → ch.holder = some l → (m.word 1).toNat % 256 = i.val → i ≠ l →
    (s.port i).state ≠ .down →
    exec (.handover l (fieldOfChan c) tag p) s =
      .next (((s.setChan c
        { ch with
          state := .handoverPending, offer := some { target := i, window := window }, saved := ch.copy, copy := some i
          rxq := (ch.rxq.map fun e =>
            { e with due := e.due.filter fun j => decide (some j = some l ∨ some j = some i) }).filter
              fun e => decide (e.due ≠ []) }).updPort i
        (·.putNotice { chan := fieldOfChan c, body := .offer (some l) window ch.play.e ch.nextRx })).replies l k m .ok
        [place i.val 0 8 ||| place window 8 8])) ∧
  (∀ (l : Link) (k : Fin 4) (c : Chan) (tag : Tag) (p : HandoverPayload) (s : State) (code : Code),
    let ch := s.chan c
    let m := CmdMsg.on .handover c tag p.words
    let n := (m.word 1).toNat % 256
    s.Serves l k →
    (if ch.state = .opening then some Code.busy
     else if ch.state = .free ∨ ch.state = .orphaned ∨ ch.holder ≠ some l then some .notHolder
     else if ch.state = .handoverPending then some .busy
     else if 3 < n ∨ n = l.val then some .badValue
     else if ∃ i : Link, n = i.val ∧ (s.port i).state = .down then some .linkDown
     else none) = some code →
    exec (.handover l (fieldOfChan c) tag p) s = .next (s.replies l k m code []))

/-- R70, R84, R109, R120: an ACCEPT by the target of a standing offer makes it the holder, with no copy destination, no
saved shadow and no offer. Of a HANDOVER_PENDING channel the former holder's queued jobs have the result NOT_HOLDER and
it is told HANDOVER_DONE; of an ORPHANED channel the gears are restored and every other link is told ADOPTED. The order
in which the NOT_HOLDER results become ready is open in the manual (assumption 5), and the counter that numbers it is the
model's (assumption 8, DESIGN CHOICE). -/
def Obligations.AcceptMakesTheTargetTheHolder : Prop :=
  ∀ (l : Link) (k : Fin 4) (c : Chan) (tag : Tag) (o : Offer) (s : State),
    let ch := s.chan c
    let m := CmdMsg.on .accept c tag []
    let taken := { ch with
      state := .active, holder := some l, copy := none, saved := none, offer := none
      rxq := (ch.rxq.map fun e => { e with due := e.due.filter fun j => decide (j = l) }).filter
        fun e => decide (e.due ≠ []) }
    let restored := { taken with
      near := { ch.near with gear := if ch.near.taps = [] then .off else ch.near.resume }
      far := { ch.far with gear := if ch.far.taps = [] then .off else ch.far.resume }
      eq := ch.eq.map fun q => { q with mode := q.resume } }
    let body (r : Channel) : List Word := [place ch.play.e.toNat 0 16 ||| place ch.nextRx.toNat 16 16, r.gearsWord, 255]
    s.Serves l k → ch.offer = some o → o.target = l →
    (∀ h : Link, ch.state = .handoverPending → ch.holder = some h → h ≠ l →
      exec (.accept l (fieldOfChan c) tag) s =
        .next { ((s.setChan c taken).updPort h fun p =>
            (p.finishQueued c .notHolder s.freeCount).told
              { chan := fieldOfChan c, body := .handoverDone l }).replies l k m .ok (body taken) with
          freeCount := s.freeCount + 1 }) ∧
    (ch.state = .orphaned → ch.holder = none →
      ∃ t, exec (.accept l (fieldOfChan c) tag) s = .next t ∧
        { t with links := s.links } = s.setChan c restored ∧
        ∀ i, t.port i =
          if i = l then (s.port i).replied k m .ok (body restored)
          else (s.port i).told { chan := fieldOfChan c, body := .adopted l restored.gearsWord })

/-- R119, R120, R121: a DECLINE by the target of a standing offer, and the expiry of an offer whose window has run out,
end the offer: the saved shadow is the copy destination again, only the holder and it stay in the pending sets, a
HANDOVER_PENDING channel is ACTIVE again, and the holder, if there is one, is told HANDOVER_FAILED; an expired offer's
target is told OFFER_WITHDRAWN. An ACCEPT or DECLINE of no standing offer to its sender is refused NOT_OFFERED. R119,
R127: every 10 ms a standing offer's window falls by 1 and stops at 0, with no other effect; while a reset clear runs,
or with no offer, nothing counts, and an offer with window remaining does not expire. That the tick and the expiry are
separate is assumption 10 (DEDUCED); that an event whose condition does not hold has no effect, assumption 9. -/
def Obligations.OffersEndByDeclineAndExpiry : Prop :=
  (∀ (l : Link) (k : Fin 4) (c : Chan) (tag : Tag) (o : Offer) (s : State),
    let ch := s.chan c
    let ended := { ch with
      state := if ch.state = .handoverPending then .active else ch.state, offer := none, copy := ch.saved, saved := none
      rxq := (ch.rxq.map fun e =>
        { e with due := e.due.filter fun j => decide (ch.holder = some j ∨ ch.saved = some j) }).filter
          fun e => decide (e.due ≠ []) }
    let failed (why : Reason) : Notice := { chan := fieldOfChan c, body := .handoverFailed o.target why }
    (s.Serves l k → ch.offer = some o → o.target = l → (ch.state = .handoverPending ∨ ch.state = .orphaned) →
      ch.holder ≠ some l →
      exec (.decline l (fieldOfChan c) tag) s =
        .next ((match ch.holder with
          | some h => (s.setChan c ended).updPort h (·.told (failed .declined))
          | none => s.setChan c ended).replies l k (.on .decline c tag []) .ok [])) ∧
    (ch.offer = some o → o.window = 0 → s.clear = .none → ch.holder ≠ some o.target →
      let told := (s.setChan c ended).updPort o.target
        (·.told { chan := fieldOfChan c, body := .offerWithdrawn .expired })
      exec (.handoverExpiry c) s =
        .next (match ch.holder with
          | some h => told.updPort h (·.told (failed .expired))
          | none => told)) ∧
    (s.Serves l k → (∀ p, ch.offer = some p → p.target ≠ l) →
      exec (.decline l (fieldOfChan c) tag) s = .next (s.replies l k (.on .decline c tag []) .notOffered []) ∧
      exec (.accept l (fieldOfChan c) tag) s = .next (s.replies l k (.on .accept c tag []) .notOffered []))) ∧
  (∀ (c : Chan) (o : Offer) (s : State),
    ((s.chan c).offer = some o → s.clear = .none →
      exec (.handoverTimerTick c) s =
        .next (s.setChan c { s.chan c with offer := some { o with window := o.window - 1 } }) ∧
      (o.window ≠ 0 → exec (.handoverExpiry c) s = .next s)) ∧
    ((s.chan c).offer = none ∨ s.clear ≠ .none →
      exec (.handoverTimerTick c) s = .next s ∧ exec (.handoverExpiry c) s = .next s))

/-- R70, R84, R115, R116: an ADOPT, from any link, of an ORPHANED channel makes that link the holder, restores the gears,
ends a standing offer, whose target, if another link, is told OFFER_WITHDRAWN, and tells every other link ADOPTED; a copy
destination that is the new holder becomes none. Of any other channel it is refused NOT_ORPHANED. -/
def Obligations.AdoptTakesAnOrphanedChannel : Prop :=
  ∀ (l : Link) (k : Fin 4) (c : Chan) (tag : Tag) (s : State),
    let ch := s.chan c
    let m := CmdMsg.on .adopt c tag []
    let kept := if ch.offer = none then ch.copy else ch.saved
    let copy := if kept = some l then none else kept
    let new := { ch with
      state := .active, holder := some l, copy := copy, saved := if ch.offer = none then ch.saved else none, offer := none
      near := { ch.near with gear := if ch.near.taps = [] then .off else ch.near.resume }
      far := { ch.far with gear := if ch.far.taps = [] then .off else ch.far.resume }
      eq := ch.eq.map fun q => { q with mode := q.resume }
      rxq := (ch.rxq.map fun e => { e with due := e.due.filter fun j => decide (j = l ∨ copy = some j) }).filter
        fun e => decide (e.due ≠ []) }
    s.Serves l k →
    (ch.state ≠ .orphaned → exec (.adopt l (fieldOfChan c) tag) s = .next (s.replies l k m .notOrphaned [])) ∧
    (ch.state = .orphaned →
      ∃ t, exec (.adopt l (fieldOfChan c) tag) s = .next t ∧
        { t with links := s.links } = s.setChan c new ∧
        ∀ i, t.port i =
          if i = l then
            (s.port i).replied k m .ok
              [place ch.play.e.toNat 0 16 ||| place ch.nextRx.toNat 16 16, new.gearsWord, place (linkByte copy) 0 8]
          else
            (if (ch.offer.map Offer.target) = some i then
              (s.port i).told { chan := fieldOfChan c, body := .offerWithdrawn .adopted } else s.port i).told
                { chan := fieldOfChan c, body := .adopted l new.gearsWord })

/-! ### The equalizer service (chapter 6) -/

/-- R91, R92: an EQ_OPEN with a point count or mode that does not exist is refused BAD_VALUE, one that exceeds the
equalizer budget NO_EQ_SPACE. Any other gives the channel a context of its effective sizes, or replaces the one it has:
unity center tap, delay line, phase and P_eps 0. The short form takes 16 taps, spacing 1024, exponents 16 and 20. -/
def Obligations.EqOpenMakesAContext : Prop :=
  ∀ (l : Link) (k : Fin 4) (c : Chan) (tag : Tag) (p : EqOpenPayload) (s : State),
    let ch := s.chan c
    let m := CmdMsg.on .eqOpen c tag p.words
    let points := (m.word 1).toNat % 512
    let mode := (m.word 1).toNat / 4096 % 8
    let n := match p with | .short _ => 16 | .long _ w _ => w.toNat % 256
    let ne := if n ≤ 8 then 8 else if 32 < n then 32 else n + n % 2
    let tr := max 12 (min 30 (match p with | .short _ => 16 | .long _ w _ => w.toNat / 256 % 256))
    let tk := max 12 (min 30 (match p with | .short _ => 20 | .long _ w _ => w.toNat / 65536 % 256))
    let spacing := match p with | .short _ => 1024 | .long _ _ w => w.toNat % 65536
    let used := s.eqUsed - (match ch.eq with | some q => q.ne | none => 0) + ne
    s.Serves l k → ch.HeldBy l → s.jobRuns c = false →
    (points ∉ [4, 16, 64, 256] ∨ mode = 0 ∨ 3 < mode →
      exec (.eqOpen l (fieldOfChan c) tag p) s = .next (s.replies l k m .badValue [])) ∧
    (∀ lv ∈ [2, 4, 8, 16], ∀ g : EqMode, points = lv * lv → mode = g.code →
      let a := max 1 (min (32767 / (lv - 1)) spacing)
      (768 < used → exec (.eqOpen l (fieldOfChan c) tag p) s = .next (s.replies l k m .noEqSpace [])) ∧
      (used ≤ 768 → exec (.eqOpen l (fieldOfChan c) tag p) s = .next
        { (s.setChan c { ch with
            eq := some
              { ne := ne, taps := (List.range ne).map fun i => if i = ne / 2 then (0x400000, 0) else (0, 0)
                line := List.replicate ne (0, 0), phase := false, lv := lv, a := a, mode := g, resume := g, trainM := tr
                trackM := tk, peps := 0 } }).replies l k m .ok
            [place points 0 9 ||| place mode 12 3, place ne 0 8 ||| place tr 8 8 ||| place tk 16 8, place a 0 16] with
          eqUsed := used }))

/-- R93, R106: an EQ_CLOSE removes the context, returns its taps to the budget, and gives every queued job of the
channel, on every link, the result NO_EQ; of a channel without context it is refused BAD_VALUE. Results made in one
action join a link's ready list in an order the manual leaves open (assumption 5): some order of exactly those jobs.
R93: an EQ_SET gives the context its mode and its clamped exponents and changes nothing else of it; a mode that does not
exist, or a channel without context, is refused BAD_VALUE. -/
def Obligations.EqCloseAndEqSetChangeTheContext : Prop :=
  (∀ (l : Link) (k : Fin 4) (c : Chan) (tag : Tag) (s : State),
    let ch := s.chan c
    let m := CmdMsg.on .eqClose c tag []
    s.Serves l k → ch.HeldBy l → s.jobRuns c = false →
    (ch.eq = none → exec (.eqClose l (fieldOfChan c) tag) s = .next (s.replies l k m .badValue [])) ∧
    (∀ q, ch.eq = some q → exec (.eqClose l (fieldOfChan c) tag) s = .next
      { ((s.updPorts (·.finishQueued c .noEq s.freeCount)).setChan c { ch with eq := none }).replies l k m .ok [] with
        eqUsed := s.eqUsed - q.ne, freeCount := s.freeCount + 1 })) ∧
  (∀ (p : LinkPort) (c : Chan) (st : EqStatus) (n : Nat),
    let mine (j : Job) : Bool := decide (j.state = .queued ∧ j.chan = fieldOfChan c)
    ∃ order : List (Fin 4), order.Perm ((p.jobs.filter mine).map Job.place) ∧
      p.finishQueued c st n =
        { p with
          jobs := p.jobs.map fun j =>
            if mine j then { j with state := .ready { status := st, outputs := [], peps := 0 } } else j
          ready := p.ready ++ order }) ∧
  (∀ (l : Link) (k : Fin 4) (c : Chan) (tag : Tag) (w : Word) (s : State),
    let ch := s.chan c
    let m := CmdMsg.on .eqSet c tag [w]
    let tr := max 12 (min 30 (w.toNat / 256 % 256))
    let tk := max 12 (min 30 (w.toNat / 65536 % 256))
    s.Serves l k → ch.HeldBy l → s.jobRuns c = false →
    (ch.eq = none ∨ w.toNat % 8 = 0 ∨ 3 < w.toNat % 8 →
      exec (.eqSet l (fieldOfChan c) tag w) s = .next (s.replies l k m .badValue [])) ∧
    (∀ q, ch.eq = some q → ∀ g : EqMode, w.toNat % 8 = g.code →
      exec (.eqSet l (fieldOfChan c) tag w) s = .next
        ((s.setChan c { ch with eq := some { q with mode := g, trainM := tr, trackM := tk } }).replies l k m .ok
          [place g.code 0 3 ||| place tr 8 8 ||| place tk 16 8])))

/-- R96, R97: a well-formed EQ_IN takes the first free job slot: QUEUED if its sender holds the channel and the channel
has an EQ context, else with the result NO_EQ or NOT_HOLDER ready at once. With no free slot it is skipped: counted on a
running channel, and told by EQ_SKIPPED. Counts out of range or not matching the length make it malformed. R97: a channel
field of 48 to 63 has the result NO_EQ. R96, R132, R141, R143: on a link that is not UP, or with the pin asserted, it has
no effect; while a reset clear runs it is discarded, a malformed one uncounted (assumption 13). -/
def Obligations.EqInTakesAJobSlot : Prop :=
  (∀ (l : Link) (k : Fin 4) (c : Chan) (tag : Tag) (ws : List Word) (s : State),
    let ch := s.chan c
    let n := (ws.getD 0 0).toNat % 32
    let r := (ws.getD 0 0).toNat / 256 % 16
    let formed := 1 ≤ n ∧ n ≤ 16 ∧ r ≤ 8 ∧ ws.length = n + r + 1
    let bare (st : EqStatus) : JobState := .ready { status := st, outputs := [], peps := 0 }
    let job (st : JobState) : Job :=
      { place := k, tag := tag, chan := fieldOfChan c, state := st
        inputs := ((ws.drop 1).take n).map fun w => (w.extractLsb' 0 16, w.extractLsb' 16 16)
        refs := ((ws.drop (1 + n)).take r).map fun w => (w.toNat % 256, w.toNat / 256 % 256) }
    s.pin = false → (s.port l).state = .up → s.clear = .none → 2 ≤ ws.length → ws.length ≤ 25 →
    (formed → (s.port l).freeJobPlace = some k →
      exec (.eqIn l (fieldOfChan c) tag ws) s = .next (s.updPort l fun p =>
        if ch.eq = none ∨ ch.state = .free ∨ ch.state = .opening then
          { p.heard with jobs := p.jobs ++ [job (bare .noEq)], ready := p.ready ++ [k] }
        else if ch.holder = some l then { p.heard with jobs := p.jobs ++ [job .queued] }
        else { p.heard with jobs := p.jobs ++ [job (bare .notHolder)], ready := p.ready ++ [k] })) ∧
    (formed → (s.port l).freeJobPlace = none →
      exec (.eqIn l (fieldOfChan c) tag ws) s = .next
        ((if ch.state = .free ∨ ch.state = .opening then s
          else s.setChan c { ch with cnt := { ch.cnt with eqJobsSkipped := stick16 ch.cnt.eqJobsSkipped } }).updPort l
            fun p => p.heard.putNotice { chan := fieldOfChan c, body := .eqSkipped tag })) ∧
    (¬ formed → exec (.eqIn l (fieldOfChan c) tag ws) s = exec (.malformedHeader l) s)) ∧
  (∀ (l : Link) (k : Fin 4) (f : ChanField) (tag : Tag) (ws : List Word) (s : State),
    let n := (ws.getD 0 0).toNat % 32
    let r := (ws.getD 0 0).toNat / 256 % 16
    let formed := 1 ≤ n ∧ n ≤ 16 ∧ r ≤ 8 ∧ ws.length = n + r + 1
    let job : Job :=
      { place := k, tag := tag, chan := f, state := .ready { status := .noEq, outputs := [], peps := 0 }
        inputs := ((ws.drop 1).take n).map fun w => (w.extractLsb' 0 16, w.extractLsb' 16 16)
        refs := ((ws.drop (1 + n)).take r).map fun w => (w.toNat % 256, w.toNat / 256 % 256) }
    (s.pin = true ∨ (s.port l).state ≠ .up → exec (.eqIn l f tag ws) s = .next s) ∧
    (s.pin = false → (s.port l).state = .up → 2 ≤ ws.length → ws.length ≤ 25 →
      (s.clear ≠ .none →
        (formed → exec (.eqIn l f tag ws) s = .next (s.updPort l LinkPort.heard)) ∧
        (¬ formed → exec (.eqIn l f tag ws) s =
          .next (s.updPort l fun p => { p with framing := .header, part := [] }))) ∧
      (s.clear = .none → 48 ≤ f.toNat →
        (formed → (s.port l).freeJobPlace = some k → exec (.eqIn l f tag ws) s =
          .next (s.updPort l fun p => { p.heard with jobs := p.jobs ++ [job], ready := p.ready ++ [k] })) ∧
        (formed → (s.port l).freeJobPlace = none → exec (.eqIn l f tag ws) s =
          .next (s.updPort l fun p => p.heard.putNotice { chan := f, body := .eqSkipped tag })) ∧
        (¬ formed → exec (.eqIn l f tag ws) s = exec (.malformedHeader l) s))))

/-- R98: the idle engine takes, in cyclic order from the link after the last served, the first link with a QUEUED job,
and of its QUEUED jobs the one that arrived first; the job is RUNNING. A running engine, or one without QUEUED job,
takes none. -/
def Obligations.JobStartTakesTheNextLinksOldestJob : Prop :=
  ∀ (s : State),
    let queued (l : Link) : List Job := (s.port l).jobs.filter fun j => decide (j.state = .queued)
    (∀ (n : Fin 4) (c : Chan) (j : Job) (js : List Job), s.engine = none →
      (∀ d : Fin 4, d < n → queued (s.eqLast + 1 + d) = []) → queued (s.eqLast + 1 + n) = j :: js →
      j.chan = fieldOfChan c →
      exec .jobStart s = .next
        { s.updPort (s.eqLast + 1 + n) (fun p =>
            { p with jobs := p.jobs.map fun (i : Job) => if i.place = j.place then { i with state := .running } else i }) with
          engine := some { link := s.eqLast + 1 + n, place := some j.place, chan := c, inputs := j.inputs
                           refs := j.refs, outputs := [], closed := false }
          eqLast := s.eqLast + 1 + n }) ∧
    (s.engine ≠ none ∨ (∀ l, queued l = []) → exec .jobStart s = .next s)

/-- R100 to R105: the running job pushes its next input into the delay line and toggles the phase. An input that leaves
phase 0 makes an output: rounded, saturated sums over taps and line, the decided levels, the target (the next reference
while TRAIN has one), the saturated error, the tap update by the mode's exponent, P_eps, and the report. -/
def Obligations.InputPushFiltersDecidesAndAdapts : Prop :=
  ∀ (j : RunJob) (u : Cplx) (us : List Cplx) (q : EqCtx) (s : State),
    let ch := s.chan j.chan
    let line := (u :: q.line).take q.ne
    let round (x : Int) (b : Nat) : Int := (x + 2 ^ (b - 1)) / 2 ^ b
    let sample (x : Int) : Int := max (-32768) (min 32767 x)
    let tap (x : Int) : Tap := BitVec.ofInt 24 (max (-8388608) (min 8388607 x))
    let z : Int × Int :=
      (sample (round (List.zipWith (fun (t : Tap × Tap) (v : Cplx) =>
          t.1.toInt * v.1.toInt - t.2.toInt * v.2.toInt) q.taps line).sum 22),
       sample (round (List.zipWith (fun (t : Tap × Tap) (v : Cplx) =>
          t.1.toInt * v.2.toInt + t.2.toInt * v.1.toInt) q.taps line).sum 22))
    let top : Int := (q.lv - 1 : Nat) * q.a
    let decide' (x : Int) : Int := max (-top) (min top ((2 * (x / (2 * q.a)) + 1) * q.a))
    let level (r : Nat) : Int := (2 * (min r (q.lv - 1) : Nat) - (q.lv - 1 : Nat)) * q.a
    let index (x : Int) : Nat := ((x / q.a + (q.lv - 1 : Nat)) / 2).toNat
    let target : Int × Int :=
      match q.mode, j.refs with
      | .train, r :: _ => (level r.1, level r.2)
      | _, _ => (decide' z.1, decide' z.2)
    let e : Int × Int := (sample (target.1 - z.1), sample (target.2 - z.2))
    let b := if q.mode = .train then q.trainM else q.trackM
    s.engine = some j → j.closed = false → j.inputs = u :: us → ch.eq = some q →
    (q.phase = false →
      exec .eqInputPush s = .next
        { s.setChan j.chan { ch with eq := some { q with line := line, phase := true } } with
          engine := some { j with inputs := us } }) ∧
    (q.phase = true →
      exec .eqInputPush s = .next
        { s.setChan j.chan { ch with
            eq := some { q with
              line := line, phase := false
              taps := if q.mode = .hold then q.taps else
                List.zipWith (fun (t : Tap × Tap) (v : Cplx) =>
                  (tap (t.1.toInt + round (e.1 * v.1.toInt + e.2 * v.2.toInt) b),
                   tap (t.2.toInt + round (e.2 * v.1.toInt - e.1 * v.2.toInt) b))) q.taps line
              peps := BitVec.ofInt 32 (q.peps.toNat - q.peps.toNat / 64 + (e.1 * e.1 + e.2 * e.2) / 64) } } with
          engine := some { j with
            inputs := us
            refs := match q.mode, j.refs with | .train, _ :: rs => rs | _, _ => j.refs
            outputs := j.outputs ++
              [{ z := (BitVec.ofInt 16 z.1, BitVec.ofInt 16 z.2)
                 reIndex := index (decide' z.1), imIndex := index (decide' z.2) }] } })

/-- R102: the slicer decides each axis by itself: d = (2 ⌊z / 2A⌋ + 1) A, clamped to the outermost levels, its index
(d / A + L − 1) / 2 exact and below L. That is the constellation level nearest to z, the upper of two equally near ones.
The two axes form the decided point, and their indexes are reported. -/
def Obligations.SlicerDecidesTheNearestLevel : Prop :=
  (∀ lv ∈ [2, 4, 8, 16], ∀ (a : Nat) (z : Int), 1 ≤ a →
    let top : Int := (lv - 1 : Nat) * a
    let level (i : Nat) : Int := (2 * i - (lv - 1 : Nat)) * a
    let d := sliceLevel lv a z
    d = max (-top) (min top ((2 * (z / (2 * a)) + 1) * a)) ∧
    levelIndex lv a d < lv ∧ (2 * (levelIndex lv a d : Int) = d / a + (lv - 1 : Nat)) ∧ d = level (levelIndex lv a d) ∧
      ∀ i < lv, |z - d| ≤ |z - level i| ∧ (|z - d| = |z - level i| → level i ≤ d)) ∧
  (∀ q : EqCtx,
    q.decision = (sliceLevel q.lv q.a q.output.1, sliceLevel q.lv q.a q.output.2) ∧
    q.report.reIndex = levelIndex q.lv q.a q.decision.1 ∧ q.report.imIndex = levelIndex q.lv q.a q.decision.2)

/-- R99, R106, R107, R108, R109: when a job completes, its result is ready in its slot, unless the slot has been emptied:
status OK with the outputs and P_eps, or CLOSED alone for a job marked CLOSED. A job completed with OK is counted. Then
the commands held behind it are taken in their order, the engine is idle, and it makes its next choice as JOB_START does
(assumption 12). A job with inputs left and not marked CLOSED does not complete (assumption 9, DESIGN CHOICE). R107: a held
command, whatever its link does meanwhile, is checked in full and answered as it would be if it arrived then with no job
running: it stays in its intake place, and its response is the newest. -/
def Obligations.JobCompleteReleasesTheEngine : Prop :=
  (∀ (j : RunJob) (s : State),
    let ch := s.chan j.chan
    let result : EqResult :=
      if j.closed then { status := .closed, outputs := [], peps := 0 }
      else { status := .ok, outputs := j.outputs, peps := match ch.eq with | some q => q.peps | none => 0 }
    let counted := if j.closed then s else
      s.setChan j.chan { ch with cnt := { ch.cnt with eqJobsDone := ch.cnt.eqJobsDone + 1 } }
    let made := match j.place with
      | some k => counted.updPort j.link fun p =>
          { p with
            jobs := p.jobs.map fun (i : Job) => if i.place = k then { i with state := .ready result } else i
            ready := p.ready ++ [k] }
      | none => counted
    s.engine = some j →
    (j.inputs = [] ∨ j.closed = true →
      let finished : State := { s.held.foldl State.takeHeld { made with held := [] } with engine := none }
      ∃ t, exec .jobComplete s = .next t ∧ exec .jobStart finished = .next t) ∧
    (j.inputs ≠ [] → j.closed = false → exec .jobComplete s = .next s)) ∧
  (∀ (i : Instr) (l : Link) (k : Fin 4) (m : CmdMsg) (s t : State) (r : Response),
    let p := s.port l
    let arrives : State :=
      { s.setPort l { p with state := .up, intake := [], responses := [] } with
        pin := false, clear := .none, engine := none }
    i.command = some (l, m) →
    (m.kind = .eqOpen ∨ m.kind = .eqClose ∨ m.kind = .eqSet ∨ m.kind = .clearTaps ∨ m.kind = .poke) →
    (p.intake.map Entry.place).Nodup → { place := k, msg := m, state := .waiting } ∈ p.intake →
    exec i arrives = .next t → (t.port l).responses = [r] →
    s.takeHeld { link := l, place := k, msg := m } =
      { t.updPort l fun q =>
          { q with
            state := p.state, framing := p.framing, part := p.part, malformedRun := p.malformedRun, timer := p.timer
            intake := p.intake.map fun e => if e.place = k then { e with state := .answered } else e
            responses := p.responses ++ [{ r with entry := some k }] } with
        pin := s.pin, clear := s.clear, engine := s.engine })

/-! ### Context inspection (chapter 10) -/

/-- R155: a PEEK, from any link, of any channel that is not OPENING reads 1, 2, 4 or 8 context words as they stand, from
the start index round its aligned group; a bad length or index is refused BAD_VALUE. R154, Table 44: what the context
words from 32 on hold: near taps, far taps, EQ taps with real and imaginary parts alternating, the twelve counters. Taps
read sign extended, words beyond a filter's taps 0. R150, Table 51, section 11-3, section 11-4: what state words 0 to 31
and the gears word hold. The page count of word 2 is that of the pages in use (assumption 17), the block sample index of
word 13 the length of the assembling block (assumption 27, DEDUCED both). -/
def Obligations.PeekReadsABurstOfContextWords : Prop :=
  (∀ (l : Link) (k : Fin 4) (c : Chan) (tag : Tag) (w : Word) (s : State),
    let ch := s.chan c
    let m := CmdMsg.on .peek c tag [w]
    let start := w.toNat % 65536
    let len := w.toNat / 65536 % 256
    s.Serves l k →
    (ch.state = .opening → exec (.peek l (fieldOfChan c) tag w) s = .next (s.replies l k m .busy [])) ∧
    (ch.state ≠ .opening → (len ∉ [1, 2, 4, 8] ∨ 303 < start) →
      exec (.peek l (fieldOfChan c) tag w) s = .next (s.replies l k m .badValue [])) ∧
    (ch.state ≠ .opening → len ∈ [1, 2, 4, 8] → start ≤ 303 →
      exec (.peek l (fieldOfChan c) tag w) s = .next (s.replies l k m .ok
        (BitVec.ofNat 32 (start + 65536 * len) ::
          (List.range len).map fun i => ch.contextWord (start - start % len + (start % len + i) % len))))) ∧
  (∀ (ch : Channel),
    (∀ i < 64, ch.contextWord (32 + i) = (ch.near.taps.getD i 0).signExtend 32) ∧
    (∀ i < 128, ch.contextWord (96 + i) = (ch.far.taps.getD i 0).signExtend 32) ∧
    (∀ i < 32, ∀ q, ch.eq = some q →
      ch.contextWord (224 + 2 * i) = (q.taps.getD i (0, 0)).1.signExtend 32 ∧
      ch.contextWord (225 + 2 * i) = (q.taps.getD i (0, 0)).2.signExtend 32) ∧
    (ch.eq = none → ∀ i < 64, ch.contextWord (224 + i) = 0) ∧
    ch.contextWord 288 = ch.cnt.blocksPlayed ∧ ch.contextWord 289 = ch.cnt.clippedSamples ∧
    ch.contextWord 290 = ch.cnt.eqJobsDone ∧ ch.contextWord 291 = ch.cnt.blocksMissing.setWidth 32 ∧
    ch.contextWord 292 = ch.cnt.blocksLate.setWidth 32 ∧ ch.contextWord 293 = ch.cnt.blocksDuplicate.setWidth 32 ∧
    ch.contextWord 294 = ch.cnt.jumps.setWidth 32 ∧ ch.contextWord 295 = ch.cnt.underruns.setWidth 32 ∧
    ch.contextWord 296 = ch.cnt.rxBlocksDropped.setWidth 32 ∧ ch.contextWord 297 = ch.cnt.clampSamples.setWidth 32 ∧
    ch.contextWord 298 = ch.cnt.divergences.setWidth 32 ∧ ch.contextWord 299 = ch.cnt.eqJobsSkipped.setWidth 32 ∧
    (∀ i, 300 ≤ i → ch.contextWord i = 0)) ∧
  (∀ (ch : Channel),
    let life : Nat := match ch.state with
      | .free => 0 | .opening => 1 | .active => 2 | .handoverPending => 3 | .orphaned => 4
    let link (x : Option Link) : Nat := match x with | some i => i.val | none => 255
    let gear (g : Gear) : Nat := match g with | .off => 0 | .train => 1 | .track => 2 | .hold => 3
    let mode (g : EqMode) : Nat := match g with | .train => 1 | .track => 2 | .hold => 3
    let slot : Nat := match ch.slot with | some k => k.val | none => 255
    let loop : Nat := match ch.loopback with | .noLoop => 0 | .localLoop => 1 | .lineLoop => 2
    let exponents (f : Filter) : Word := place f.trainM 0 8 ||| place f.trackM 8 8 ||| place f.leak 16 8
    let p := ch.play
    ch.contextWord 0 =
      (place life 0 3 ||| place (link ch.holder) 8 8 ||| place (link ch.copy) 16 8 ||| place (link ch.saved) 24 8) ∧
    ch.contextWord 1 = ((match ch.offer with | some o => place o.target.val 0 8 ||| place o.window 8 8 | none => 0) |||
      place slot 16 8 ||| place loop 24 2) ∧
    ch.contextWord 2 =
      (ch.idle.setWidth 32 ||| place (ch.pages.length - ((ch.retune.map Retune.reserved).getD 0)) 16 8) ∧
    ch.contextWord 3 = (place ch.nn 0 8 ||| place ch.nf 8 8 ||| place ch.d 16 16) ∧
    ch.contextWord 4 = (place ch.charge 0 16 |||
      (match ch.retune with | some r => place 1 16 1 ||| place (link r.requester) 24 8 | none => 0)) ∧
    ch.contextWord 5 = (match ch.retune with | some r => place r.nf 0 8 ||| place r.d 16 16 | none => 0) ∧
    ch.gearsWord = (place (gear ch.near.gear) 0 2 ||| place (gear ch.far.gear) 2 2 |||
      (match ch.eq with | some q => place (mode q.mode) 4 2 ||| place 1 6 1 | none => 0)) ∧
    ch.contextWord 6 = (ch.gearsWord ||| place (gear ch.near.resume) 8 2 ||| place (gear ch.far.resume) 10 2 |||
      (match ch.eq with | some q => place (mode q.resume) 12 2 | none => 0) ||| placeBit ch.autoNear 16 |||
      placeBit ch.autoFar 17) ∧
    ch.contextWord 7 = exponents ch.near ∧ ch.contextWord 8 = exponents ch.far ∧
    ch.contextWord 9 = (place ch.c 0 8 ||| place ch.convBlocks 8 8 ||| place ch.divBlocks 16 8) ∧
    ch.contextWord 10 = BitVec.ofNat 32 ch.floor ∧ ch.contextWord 11 = ch.py ∧ ch.contextWord 12 = ch.pe ∧
    ch.contextWord 13 = (place ch.convRun 0 8 ||| place ch.divRun 8 8 ||| place ch.asm.length 16 8) ∧
    ch.contextWord 14 = BitVec.ofNat 32 ch.writePos ∧ ch.contextWord 15 = BitVec.ofNat 32 ch.filled ∧
    ch.contextWord 16 = (placeBit (decide (p.state = .playing)) 0 |||
      place (p.window.toList.filter Option.isSome).length 8 8 ||| place p.startDepth 16 8 ||| place p.lowWater 24 8) ∧
    ch.contextWord 17 = (p.e.setWidth 32 ||| placeBit (decide (p.fill = .repeatLast)) 16 ||| placeBit p.lastWasFill 17 |||
      placeBit p.current.isSome 18 ||| place p.readPos 24 8) ∧
    ch.contextWord 18 = (ch.nextRx.setWidth 32 ||| place ch.rxq.length 16 8) ∧
    ch.contextWord 19 = (ch.mask.setWidth 32 ||| place ch.flags.toNat 8 9) ∧
    (∀ q, ch.eq = some q →
      ch.contextWord 20 = (place q.ne 0 8 ||| place q.lv 8 8 ||| placeBit q.phase 16) ∧
      ch.contextWord 21 = (place q.a 0 16 ||| place q.trainM 16 8 ||| place q.trackM 24 8) ∧ ch.contextWord 22 = q.peps) ∧
    (ch.eq = none → ch.contextWord 20 = 0 ∧ ch.contextWord 21 = 0 ∧ ch.contextWord 22 = 0) ∧
    (∀ i, 23 ≤ i → i ≤ 31 → ch.contextWord i = 0))

/-- R156, R157: a POKE from the holder sets one tap to its clamped value, and answers with the old and the new word. An
index that is no context word, or a tap the filter does not have, is refused BAD_VALUE, a word that is no tap READ_ONLY.
An EQ tap's POKE is stated for a channel whose job does not run. -/
def Obligations.PokeWritesOneTap : Prop :=
  ∀ (l : Link) (k : Fin 4) (c : Chan) (tag : Tag) (w v : Word) (s : State),
    let ch := s.chan c
    let m := CmdMsg.on .poke c tag [w, v]
    let i := w.toNat % 65536
    let tap : Tap := BitVec.ofInt 24 (max (-8388608) (min 8388607 v.toInt))
    let body : List Word := [BitVec.ofNat 32 i, ch.contextWord i, tap.signExtend 32]
    let ne := match ch.eq with | some q => q.ne | none => 0
    s.Serves l k → ch.HeldBy l → (224 ≤ i → i ≤ 287 → s.jobRuns c = false) →
    (i ≤ 31 ∨ (288 ≤ i ∧ i ≤ 303) →
      exec (.poke l (fieldOfChan c) tag w v) s = .next (s.replies l k m .readOnly [])) ∧
    (304 ≤ i ∨ (32 + ch.nn ≤ i ∧ 32 ≤ i ∧ i ≤ 95) ∨ (96 + ch.nf ≤ i ∧ 96 ≤ i ∧ i ≤ 223) ∨
        (224 + 2 * ne ≤ i ∧ 224 ≤ i ∧ i ≤ 287) →
      exec (.poke l (fieldOfChan c) tag w v) s = .next (s.replies l k m .badValue [])) ∧
    (32 ≤ i → i ≤ 95 → i < 32 + ch.nn →
      exec (.poke l (fieldOfChan c) tag w v) s = .next ((s.setChan c
        { ch with near := { ch.near with taps := ch.near.taps.set (i - 32) tap } }).replies l k m .ok body)) ∧
    (96 ≤ i → i ≤ 223 → i < 96 + ch.nf →
      exec (.poke l (fieldOfChan c) tag w v) s = .next ((s.setChan c
        { ch with far := { ch.far with taps := ch.far.taps.set (i - 96) tap } }).replies l k m .ok body)) ∧
    (∀ q, ch.eq = some q → 224 ≤ i → i ≤ 287 → i < 224 + 2 * q.ne →
      exec (.poke l (fieldOfChan c) tag w v) s = .next ((s.setChan c
        { ch with eq := some { q with
            taps := q.taps.modify ((i - 224) / 2) fun t => if i % 2 = 0 then (tap, t.2) else (t.1, tap) } }).replies l k m
              .ok body))

/-- R158, R159: a WATCH of a running channel sets the link's watch, its countdown at the clamped interval, or ends it
with interval 0, and discards unsent watch data; FREE is refused BAD_CHANNEL, OPENING BUSY, a bad index BAD_VALUE. At
each block boundary of the channel the countdown falls, and at its end the data is sampled and the countdown restarts. -/
def Obligations.WatchSamplesAtBlockBoundaries : Prop :=
  (∀ (l : Link) (k : Fin 4) (c : Chan) (tag : Tag) (w : Word) (s : State),
    let ch := s.chan c
    let m := CmdMsg.on .watch c tag [w]
    let index := w.toNat % 65536
    let interval := min 255 (w.toNat / 65536)
    s.Serves l k →
    (ch.state = .free → exec (.watch l (fieldOfChan c) tag w) s = .next (s.replies l k m .badChannel [])) ∧
    (ch.state = .opening → exec (.watch l (fieldOfChan c) tag w) s = .next (s.replies l k m .busy [])) ∧
    (ch.state ≠ .free → ch.state ≠ .opening → 303 < index →
      exec (.watch l (fieldOfChan c) tag w) s = .next (s.replies l k m .badValue [])) ∧
    (ch.state ≠ .free → ch.state ≠ .opening → index ≤ 303 →
      exec (.watch l (fieldOfChan c) tag w) s = .next
        ((s.updPort l fun p =>
          { p with
            watch := if interval = 0 then none else
              some { chan := c, index := index, interval := interval, countdown := interval }
            watchData := none }).replies l k m .ok [BitVec.ofNat 32 (index + 65536 * interval)]))) ∧
  (∀ (c : Chan) (seq : Seq) (s : State) (i : Link),
    let ch := s.chan c
    (∀ v, (s.port i).watch = some v → v.chan = c → 1 < v.countdown →
      (s.watchStep c seq).port i = { s.port i with watch := some { v with countdown := v.countdown - 1 } }) ∧
    (∀ v, (s.port i).watch = some v → v.chan = c → v.countdown = 1 →
      (s.watchStep c seq).port i = { s.port i with
        watch := some { v with countdown := v.interval }
        watchData := some { chan := c, index := v.index, rxSeq := seq, word := ch.contextWord v.index, py := ch.py
                            pe := ch.pe, gears := ch.gearsWord } }) ∧
    ((∀ v, (s.port i).watch = some v → v.chan ≠ c) → (s.watchStep c seq).port i = s.port i))

/-! ### Reports (chapter 9) -/

/-- R4, R149, R150: a STATUS reads context words 0 to 31 as they stand and then clears the named flags; a set member
that is no flag is refused BAD_VALUE, a clear set from a link that does not hold the channel NOT_HOLDER. An OPENING
channel is read by any link, and its clear set clears nothing. R151, R152: a COUNTERS reads a channel's twelve counters,
or, with channel field 63, the sending link's four, and with the clear option zeroes them. OPENING is refused BUSY; a
clear by a link that does not hold the channel NOT_HOLDER. That a bad set is judged before the channel's state and the
sender's right is assumption 18, and the page count of word 2 is assumption 17 (DEDUCED both). -/
def Obligations.StatusAndCountersReadAndClear : Prop :=
  (∀ (l : Link) (k : Fin 4) (c : Chan) (tag : Tag) (w : Option Word) (s : State),
    let ch := s.chan c
    let m := CmdMsg.on .status c tag w.toList
    let set := (w.getD 0).toNat % 65536
    s.Serves l k →
    (512 ≤ set → exec (.status l (fieldOfChan c) tag w) s = .next (s.replies l k m .badValue [])) ∧
    (set < 512 → set = 0 ∨ ch.state = .opening →
      exec (.status l (fieldOfChan c) tag w) s = .next (s.replies l k m .ok ((List.range 32).map ch.contextWord))) ∧
    (set < 512 → set ≠ 0 → ch.state ≠ .opening → ¬ ch.HeldBy l →
      exec (.status l (fieldOfChan c) tag w) s = .next (s.replies l k m .notHolder [])) ∧
    (set < 512 → ch.HeldBy l →
      exec (.status l (fieldOfChan c) tag w) s = .next
        ((s.setChan c { ch with flags := ch.flags &&& ~~~(BitVec.ofNat 9 set) }).replies l k m .ok
          ((List.range 32).map ch.contextWord)))) ∧
  (∀ (l : Link) (k : Fin 4) (c : Chan) (tag : Tag) (w : Option Word) (s : State),
    let ch := s.chan c
    let p := s.port l
    let m := CmdMsg.on .counters c tag w.toList
    let clears := (w.getD 0).getLsbD 0 = true
    s.Serves l k →
    (ch.state = .opening → exec (.counters l (fieldOfChan c) tag w) s = .next (s.replies l k m .busy [])) ∧
    (ch.state ≠ .opening → clears → ¬ ch.HeldBy l →
      exec (.counters l (fieldOfChan c) tag w) s = .next (s.replies l k m .notHolder [])) ∧
    (ch.state ≠ .opening → ¬ clears →
      exec (.counters l (fieldOfChan c) tag w) s = .next (s.replies l k m .ok
        ((List.range 12).map fun i => ch.contextWord (288 + i)))) ∧
    (clears → ch.HeldBy l →
      exec (.counters l (fieldOfChan c) tag w) s = .next ((s.setChan c { ch with cnt := Counters.zero }).replies l k m .ok
        ((List.range 12).map fun i => ch.contextWord (288 + i)))) ∧
    exec (.counters l 63 tag w) s = .next
      ((s.setPort l (if clears then
          { p with malformedMessages := 0, commandsDropped := 0, foreignBlocks := 0, noticesLost := 0 } else p)).replies l k
        { kind := .counters, chan := 63, tag := tag, payload := w.toList } .ok
        [p.malformedMessages.setWidth 32, p.commandsDropped.setWidth 32, p.foreignBlocks.setWidth 32,
         p.noticesLost.setWidth 32]))

/-- R137, R141, R153: a NOP is answered OK whatever its channel field and payload. A DEVICE_STATUS, answered also while a
reset clear runs, reports the free pages, the monitor, the mark, the links, and the two budgets in use. -/
def Obligations.NopAndDeviceStatusAreAnswered : Prop :=
  ∀ (l : Link) (k : Fin 4) (f : ChanField) (tag : Tag) (ws : List Word) (s : State),
    let code (i : Link) : Nat := match (s.port i).state with | .down => 0 | .up => 1 | .outOfStep => 2
    (s.Serves l k → exec (.nop l f tag ws) s =
      .next (s.replies l k { kind := .nop, chan := f, tag := tag, payload := ws } .ok [])) ∧
    (s.pin = false → (s.port l).state = .up → (s.port l).freePlace = some k →
      exec (.deviceStatus l 63 tag) s =
        .next (s.replies l k { kind := .deviceStatus, chan := 63, tag := tag, payload := [] } .ok
          [place s.freeList.length 0 8 ||| placeBit s.locked 8 ||| placeBit (decide (s.clear ≠ .none)) 9
              ||| place (code 0) 16 2 ||| place (code 1) 18 2 ||| place (code 2) 20 2 ||| place (code 3) 22 2,
            place s.echoUsed 0 16 ||| place s.eqUsed 16 16]))

/-! ### The transmit playout (chapter 2) -/

/-- R33 to R36, R40: a TX_BLOCK of sequence Q from the holder (or the target of a standing offer while HANDOVER_PENDING)
is placed by o = Q − E modulo 65,536: stored at an empty position o below 16, a duplicate at an occupied one, a jump for
o from 16 to 32,767 that makes E = Q − 15, late above. A stored block or a jump may end PRIMING; the watermark edges
follow. From any other link it is counted as foreign. R32, R36: PRIMING ends when the depth meets the start depth: E
advances to the lowest occupied position, the blocks keeping their sequence numbers. Otherwise the playout stays as it
is. R33, R132, R141, R143: with a channel field of 48 to 63 it is foreign; on a link that is not UP, or with the pin
asserted, it has no effect; while a reset clear runs it is discarded uncounted. -/
def Obligations.TxBlockIsPlacedByItsOffset : Prop :=
  (∀ (l : Link) (c : Chan) (w : Word) (xs : Vector Word 8) (s : State),
    let ch := s.chan c
    let p := ch.play
    let q : Seq := w.extractLsb' 0 16
    let o := (q - p.e).toNat
    let b : Block := Vector.ofFn fun i => (xs[i.val / 2]'(by omega)).extractLsb' (16 * (i.val % 2)) 16
    let ours := (ch.state = .active ∧ ch.holder = some l) ∨
      (ch.state = .handoverPending ∧ (ch.holder = some l ∨ (ch.offer.map Offer.target) = some l))
    let heard := s.updPort l LinkPort.heard
    let late (x : Channel) : Channel := { x with flags := x.flags ||| 2 }
    s.pin = false → (s.port l).state = .up → s.clear = .none →
    (ours → ∀ h : o < 16, p.window[o] = none →
      exec (.txBlock l (fieldOfChan c) w xs) s = .next ((heard.setChan c
        { ch with play := { p with window := p.window.set o (some b) }.startCheck }).watermark c p.depth)) ∧
    (ours → ∀ h : o < 16, p.window[o] ≠ none →
      exec (.txBlock l (fieldOfChan c) w xs) s = .next (heard.setChan c
        (late { ch with cnt := { ch.cnt with blocksDuplicate := stick16 ch.cnt.blocksDuplicate } }))) ∧
    (ours → 16 ≤ o → o ≤ 32767 →
      exec (.txBlock l (fieldOfChan c) w xs) s = .next ((heard.setChan c
        { ch with
          play := { p with
            e := q - 15
            window := Vector.ofFn fun i =>
              if i = 15 then some b else if h : i.val + (o - 15) < 16 then p.window[i.val + (o - 15)] else none }.startCheck
          cnt := { ch.cnt with jumps := stick16 ch.cnt.jumps }, flags := ch.flags ||| 4 }).watermark c p.depth)) ∧
    (ours → 32768 ≤ o →
      exec (.txBlock l (fieldOfChan c) w xs) s = .next (heard.setChan c
        (late { ch with cnt := { ch.cnt with blocksLate := stick16 ch.cnt.blocksLate } }))) ∧
    (¬ ours → exec (.txBlock l (fieldOfChan c) w xs) s = .next (s.updPort l fun p =>
      { p.heard with foreignBlocks := stick16 p.foreignBlocks }))) ∧
  (∀ (p : Playout) (n : Fin 16),
    (p.state = .priming → p.startDepth ≤ p.depth → p.window[n] ≠ none → (∀ i : Fin 16, i < n → p.window[i] = none) →
      p.startCheck = { p with
        state := .playing, e := p.e + BitVec.ofNat 16 n.val
        window := Vector.ofFn fun i => if h : i.val + n.val < 16 then p.window[i.val + n.val] else none }) ∧
    (p.state = .playing ∨ p.depth < p.startDepth → p.startCheck = p)) ∧
  (∀ (l : Link) (f : ChanField) (w : Word) (xs : Vector Word 8) (s : State),
    (s.pin = true ∨ (s.port l).state ≠ .up → exec (.txBlock l f w xs) s = .next s) ∧
    (s.pin = false → (s.port l).state = .up → s.clear ≠ .none →
      exec (.txBlock l f w xs) s = .next (s.updPort l LinkPort.heard)) ∧
    (s.pin = false → (s.port l).state = .up → s.clear = .none → 48 ≤ f.toNat →
      exec (.txBlock l f w xs) s = .next (s.updPort l fun p =>
        { p.heard with foreignBlocks := stick16 p.foreignBlocks })))

/-- R40, R145: a fall of the depth to or below the low watermark from above tells the channel's recipients PLAYOUT_LOW, a
rise above it from at or below PLAYOUT_RECOVERED, each with the depth after the event, if the mask has the kind. -/
def Obligations.WatermarkEdgesAreTold : Prop :=
  ∀ (c : Chan) (before : Nat) (s : State),
    let ch := s.chan c
    let w := ch.play.lowWater
    let now := ch.play.depth
    let tell (n : NoticeBody) (t : State) : Prop :=
      { t with links := s.links } = s ∧ ∀ i, t.port i =
        if ch.holder = some i ∨ ch.copy = some i then (s.port i).told { chan := fieldOfChan c, body := n } else s.port i
    (∀ h, ch.holder = some h → ch.copy ≠ some h) →
    (w < before → now ≤ w → ch.mask.getLsbD 3 = true → tell (.playoutLow now w) (s.watermark c before)) ∧
    (before ≤ w → w < now → ch.mask.getLsbD 4 = true → tell (.playoutRecovered now w) (s.watermark c before)) ∧
    ((before ≤ w ↔ now ≤ w) ∨ (now ≤ w ∧ ch.mask.getLsbD 3 = false) ∨ (w < now ∧ ch.mask.getLsbD 4 = false) →
      s.watermark c before = s)

/-- R37, R38, R39: the playout sample of one frame operation: the idle value while PRIMING; the current block's next
sample; at a block start sample 0 of the block at E, or of the fill block for a missing one, E advancing by 1; with
nothing buffered an underrun: PRIMING, the idle value, counted and latched. The read position that an underrun leaves is
open in the manual (assumption 6): some value from 0 to 16. -/
def Obligations.PlayoutGivesTheNextSample : Prop :=
  ∀ (c : Chan) (s : State),
    let ch := s.chan c
    let p := ch.play
    let starts := p.state = .playing ∧ (p.current = none ∨ p.readPos = 16)
    let advance (b : Block) : Playout :=
      { p with
        e := p.e + 1, current := some b, readPos := 1
        window := Vector.ofFn fun i => if h : i.val + 1 < 16 then p.window[i.val + 1] else none }
    let fill : Block :=
      match p.fill, p.lastWasFill, p.lastPlayed with | .repeatLast, false, some b => b | _, _, _ => Vector.replicate 16 0
    (p.state = .priming → s.playoutSample c = (s, ch.idle)) ∧
    (∀ b, p.state = .playing → p.current = some b → ∀ h : p.readPos < 16,
      s.playoutSample c = (s.setChan c { ch with play := { p with readPos := p.readPos + 1 } }, b[p.readPos])) ∧
    (∀ b, starts → p.window[0] = some b →
      s.playoutSample c =
        ((s.setChan c { ch with
            play := { advance b with lastPlayed := some b, lastWasFill := false }
            cnt := { ch.cnt with blocksPlayed := ch.cnt.blocksPlayed + 1 } }).watermark c p.depth, b[0])) ∧
    (starts → p.window[0] = none → 0 < p.depth →
      s.playoutSample c =
        ((s.setChan c { ch with
            play := { advance fill with lastWasFill := true }, flags := ch.flags ||| 8
            cnt := { ch.cnt with blocksMissing := stick16 ch.cnt.blocksMissing } }).watermark c p.depth, fill[0])) ∧
    (starts → p.depth = 0 →
      ∃ r ≤ 16, s.playoutSample c =
        (({ s.setChan c { ch with
              play := { p with state := .priming, current := none, readPos := r }, flags := ch.flags ||| 1
              cnt := { ch.cnt with underruns := stick16 ch.cnt.underruns } } with
            freeCount := s.freeCount + 1 } : State).raise c .underrun (.underrun p.e), ch.idle))

/-! ### The frame operation (chapters 2 to 5) -/

/-- R45, R46: writing a sample to a channel's history makes it the sample of age 0 and every earlier sample one frame
older, the oldest leaving a full ring; no page of another list changes. For a channel whose pages are distinct. -/
def Obligations.HistoryKeepsTheLatestSamples : Prop :=
  ∀ (c : Chan) (x : Sample) (s : State),
    let ch := s.chan c
    let t := s.writeHistory c x
    s.pool.wf = true → ch.pages.Nodup → 0 < ch.ringLength → ch.writePos < ch.ringLength → ch.filled ≤ ch.ringLength →
    (t.chan c).sampleOfAge t.pool 0 = x ∧
    (∀ j, (t.chan c).sampleOfAge t.pool (j + 1) = if j + 1 < ch.ringLength then ch.sampleOfAge s.pool j else 0) ∧
    (∀ a, a / 256 ∉ ch.pages.map Fin.val → t.pool.read a = s.pool.read a) ∧ t.pool.wf = true ∧
    t = { s.setChan c { ch with
            writePos := (ch.writePos + 1) % ch.ringLength, filled := min (ch.filled + 1) ch.ringLength } with
          pool := t.pool }

/-- R44, R46 to R51: the error is y less the estimate, saturated: the estimate rounds half up the sum of tap times sample
of the filters that are not OFF, over 2^22. Each tap of a filter in TRAIN or TRACK moves by the rounded error times its
sample over 2^exponent, and is clamped. A saturated error and a clamped update are counted and latched; nothing else of
the record changes. -/
def Obligations.EchoIsEstimatedAndTapsUpdated : Prop :=
  ∀ (ch : Channel) (m : Memory) (y : Sample),
    let near (i : Nat) : Sample := ch.sampleOfAge m i
    let far (i : Nat) : Sample := ch.sampleOfAge m (ch.d + i)
    let part (f : Filter) (age : Nat → Sample) : Int :=
      if f.gear = .off then 0 else ((f.taps.zipIdx.map fun t => t.1.toInt * (age t.2).toInt) : List Int).sum
    let estimate : Int := (part ch.near near + part ch.far far + 2097152) / 4194304
    let exact : Int := y.toInt - estimate
    let e : Int := max (-32768) (min 32767 exact)
    let moved (f : Filter) (x : Sample) (t : Tap) : Int :=
      let b := if f.gear = .train then f.trainM else f.trackM
      t.toInt + (e * x.toInt + 2 ^ (b - 1)) / 2 ^ b
    let clamped (v : Int) : Int := max (-8388608) (min 8388607 v)
    let adapts (f : Filter) : Prop := f.gear = .train ∨ f.gear = .track
    let update (f : Filter) (age : Nat → Sample) : Filter :=
      { f with taps := f.taps.zipIdx.map fun t =>
          if f.gear = .train ∨ f.gear = .track then BitVec.ofInt 24 (clamped (moved f (age t.2) t.1)) else t.1 }
    let clamps (f : Filter) (age : Nat → Sample) : Prop :=
      adapts f ∧ ∃ t ∈ f.taps.zipIdx, clamped (moved f (age t.2) t.1) ≠ moved f (age t.2) t.1
    let new := { ch with near := update ch.near near, far := update ch.far far }
    ch.error m y = e ∧
    ∃ flags cnt, ch.echo m y = { new with flags := flags, cnt := cnt } ∧
      (∀ f : Flag, f ≠ .clipped → f ≠ .tapClamped → flags.getLsbD f.index = ch.flags.getLsbD f.index) ∧
      (flags.getLsbD 5 = true ↔ ch.flags.getLsbD 5 = true ∨ exact ≠ e) ∧
      (flags.getLsbD 6 = true ↔ ch.flags.getLsbD 6 = true ∨ clamps ch.near near ∨ clamps ch.far far) ∧
      { cnt with clippedSamples := ch.cnt.clippedSamples, clampSamples := ch.cnt.clampSamples } = ch.cnt ∧
      (exact ≠ e → cnt.clippedSamples = ch.cnt.clippedSamples + 1) ∧
      (exact = e → cnt.clippedSamples = ch.cnt.clippedSamples) ∧
      (clamps ch.near near ∨ clamps ch.far far → cnt.clampSamples = stick16 ch.cnt.clampSamples) ∧
      (¬ (clamps ch.near near ∨ clamps ch.far far) → cnt.clampSamples = ch.cnt.clampSamples)

/-- R53: the leak takes from each tap of a filter in TRAIN or TRACK its value over 2^leak, truncated toward 0: no tap
changes its sign or grows in magnitude, and one below 2^leak in magnitude stays. R54, R55, R105: each power estimate
loses its 64th and gains the 64th of the sample's square, both floored, and from a value of at most 2^30 it stays at
most 2^30; P_eps, with the squares of both error parts, from at most 2^31 stays at most 2^31. -/
def Obligations.LeakAndPowerFollowTheirRules : Prop :=
  (∀ (f : Filter) (i : Nat), i < f.taps.length →
    let t := (f.taps.getD i 0).toInt
    let t' := (f.leaked.taps.getD i 0).toInt
    f.leaked = { f with taps := f.leaked.taps } ∧ f.leaked.taps.length = f.taps.length ∧
    (f.gear = .off ∨ f.gear = .hold ∨ f.leak = 0 → t' = t) ∧
    (f.gear = .train ∨ f.gear = .track → 0 < f.leak →
      (0 ≤ t → t' = t - t / 2 ^ f.leak ∧ 0 ≤ t' ∧ t' ≤ t) ∧ (t < 0 → t' = t + (-t) / 2 ^ f.leak ∧ t ≤ t' ∧ t' ≤ 0) ∧
      (|t| < 2 ^ f.leak → t' = t))) ∧
  (∀ (ch : Channel) (y : Sample) (e : Int), -32768 ≤ e → e ≤ 32767 → ch.py.toNat ≤ 2 ^ 30 → ch.pe.toNat ≤ 2 ^ 30 →
    ch.power y e = { ch with py := (ch.power y e).py, pe := (ch.power y e).pe } ∧
    ((ch.power y e).py.toNat : Int) = ch.py.toNat - ch.py.toNat / 64 + y.toInt * y.toInt / 64 ∧
    ((ch.power y e).pe.toNat : Int) = ch.pe.toNat - ch.pe.toNat / 64 + e * e / 64 ∧
    (ch.power y e).py.toNat ≤ 2 ^ 30 ∧ (ch.power y e).pe.toNat ≤ 2 ^ 30) ∧
  (∀ (p : BitVec 32) (er ei : Int), -32768 ≤ er → er ≤ 32767 → -32768 ≤ ei → ei ≤ 32767 → p.toNat ≤ 2 ^ 31 →
    ((pepsStep p er ei).toNat : Int) = p.toNat - p.toNat / 64 + (er * er + ei * ei) / 64 ∧
    (pepsStep p er ei).toNat ≤ 2 ^ 31)

/-- R26 to R31, R45, R79: a frame operation within a block. The loopback mode chooses the outbound sample and the
inbound sample between the playout and the line; the outbound sample is written to the history and drives the slot; the
echo and power steps follow, and the error sample joins the assembling block. With the 16th sample comes the block
boundary work: close the rx block, leak, convergence, divergence, retune, watch, in this order. -/
def Obligations.FrameOperationRunsItsStages : Prop :=
  ∀ (c : Chan) (inbound : Vector Sample 64) (slot : Slot) (s : State),
    let played := s.playoutSample c
    let line := inbound[slot]
    let x := if (s.chan c).loopback = .lineLoop then line else played.2
    let y := if (s.chan c).loopback = .localLoop then played.2 else line
    let written := played.1.writeHistory c x
    let ch := written.chan c
    let e := ch.error written.pool y
    let block := ch.asm ++ [BitVec.ofInt 16 e]
    let driven := { written with outbound := written.outbound.set slot (some x) }
    let updated := (ch.echo written.pool y).power y e
    (s.chan c).slot = some slot →
    (block.length < 16 → State.frameOp inbound s c = driven.setChan c { updated with asm := block }) ∧
    (16 ≤ block.length →
      State.frameOp inbound s c =
        ((((((driven.setChan c updated).closeRxBlock c block).updChan c Channel.leakStep).convergeStep c).divergeStep
          c).applyRetune c).watchStep c ch.nextRx)

/-- R64 to R67, R149, R151: the convergence step completes at conv_blocks boundaries in a row: the auto-shifted filters
in TRAIN go to TRACK, and the run restarts. The divergence step completes at div_blocks in a row: each filter in TRAIN or
TRACK is zeroed into TRAIN, both runs restart, and it is counted. Neither step changes anything else of the record. R39,
R65, R67, R145: a completion tells the holder and the copy destination CONVERGED or DIVERGED, with the filters it moved or
retrained, if the channel's mask has the kind; an underrun and every other kind of the mask are told the same way. -/
def Obligations.ConvergenceAndDivergenceAreJudgedByRuns : Prop :=
  (∀ (ch : Channel),
    let trains (f : Filter) := f.taps ≠ [] ∧ f.gear = .train
    let adapts (f : Filter) := f.taps ≠ [] ∧ (f.gear = .train ∨ f.gear = .track)
    let quiet := ch.floor ≤ ch.py.toNat ∧ ch.pe.toNat * 2 ^ ch.c ≤ ch.py.toNat
    let loud := ch.floor ≤ ch.py.toNat ∧ 2 * ch.py.toNat < ch.pe.toNat
    let judged := (ch.autoNear = true ∧ trains ch.near) ∨ (ch.autoFar = true ∧ trains ch.far)
    let retrained (f : Filter) : Filter :=
      if f.gear = .train ∨ f.gear = .track then { f with gear := .train, taps := f.taps.map fun _ => 0 } else f
    (¬ (judged ∧ quiet) → ch.convergeStep = { ch with convRun := 0 }) ∧
    (judged → quiet → ch.convRun + 1 < ch.convBlocks → ch.convergeStep = { ch with convRun := ch.convRun + 1 }) ∧
    (judged → quiet → ch.convBlocks ≤ ch.convRun + 1 →
      ch.convergeStep = { ch with
        near := if ch.autoNear = true ∧ ch.near.gear = .train then { ch.near with gear := .track } else ch.near
        far := if ch.autoFar = true ∧ ch.far.gear = .train then { ch.far with gear := .track } else ch.far
        convRun := 0, flags := ch.flags ||| 256 }) ∧
    (¬ ((adapts ch.near ∨ adapts ch.far) ∧ loud) → ch.divergeStep = { ch with divRun := 0 }) ∧
    (adapts ch.near ∨ adapts ch.far → loud → ch.divRun + 1 < ch.divBlocks →
      ch.divergeStep = { ch with divRun := ch.divRun + 1 }) ∧
    (adapts ch.near ∨ adapts ch.far → loud → ch.divBlocks ≤ ch.divRun + 1 →
      ch.divergeStep = { ch with
        near := retrained ch.near, far := retrained ch.far, convRun := 0, divRun := 0, flags := ch.flags ||| 128
        cnt := { ch.cnt with divergences := stick16 ch.cnt.divergences } }) ∧
    (0 < ch.py.toNat → ¬ (quiet ∧ loud))) ∧
  (∀ (c : Chan) (s : State),
    let ch := s.chan c
    let quiet := ch.floor ≤ ch.py.toNat ∧ ch.pe.toNat * 2 ^ ch.c ≤ ch.py.toNat
    let loud := ch.floor ≤ ch.py.toNat ∧ 2 * ch.py.toNat < ch.pe.toNat
    let trains (f : Filter) := f.taps ≠ [] ∧ f.gear = .train
    let adapts (f : Filter) := f.taps ≠ [] ∧ (f.gear = .train ∨ f.gear = .track)
    let done := ((ch.autoNear = true ∧ trains ch.near) ∨ (ch.autoFar = true ∧ trains ch.far)) ∧ quiet ∧
      ch.convBlocks ≤ ch.convRun + 1
    let lost := (adapts ch.near ∨ adapts ch.far) ∧ loud ∧ ch.divBlocks ≤ ch.divRun + 1
    let moved (auto : Bool) (f : Filter) : Bool := auto && decide (f.gear = .train)
    let retrained (f : Filter) : Bool := decide (f.gear = .train ∨ f.gear = .track)
    (done → s.convergeStep c =
      (s.setChan c ch.convergeStep).raise c .converged
        (.converged (moved ch.autoNear ch.near) (moved ch.autoFar ch.far))) ∧
    (¬ done → s.convergeStep c = s.setChan c ch.convergeStep) ∧
    (lost → s.divergeStep c =
      (s.setChan c ch.divergeStep).raise c .diverged (.diverged (retrained ch.near) (retrained ch.far))) ∧
    (¬ lost → s.divergeStep c = s.setChan c ch.divergeStep)) ∧
  (∀ (c : Chan) (b : NoticeBody) (s : State),
    let ch := s.chan c
    (∀ h, ch.holder = some h → ch.copy ≠ some h) →
    ∀ k ∈ [(0, MaskKind.converged), (1, .diverged), (2, .underrun), (3, .playoutLow), (4, .playoutRecovered),
        (5, .rxOverrun)],
      (ch.mask.getLsbD k.1 = true →
        { s.raise c k.2 b with links := s.links } = s ∧ ∀ i, (s.raise c k.2 b).port i =
          if ch.holder = some i ∨ ch.copy = some i then (s.port i).told { chan := fieldOfChan c, body := b }
          else s.port i) ∧
      (ch.mask.getLsbD k.1 = false → s.raise c k.2 b = s))

/-- R20, R61, R75, R76, R77: the application of a retune. Far tap i is the old tap i + D' − D, or 0 where there is none;
the gear goes OFF without taps, TRAIN with the first ones; the most recent history samples that the new ring holds stay;
the pages beyond the new page count are released; the new cost is charged; the requester is answered. Of an ORPHANED
channel the resume gear changes in that way, and the gear is HOLD, or OFF with the resume gear. For a running channel
with a sound record. -/
def Obligations.RetuneShiftsTapsAndKeepsHistory : Prop :=
  ∀ (c : Chan) (r : Retune) (s : State),
    let ch := s.chan c
    let z : Sizes := { nn := ch.nn, nf := r.nf, d := r.d }
    let ring := 256 * z.pageCount
    let t := s.applyRetune c
    let resized (g : Gear) : Gear := if r.nf = 0 then .off else if ch.nf = 0 then .train else g
    s.PoolSound → ch.Sound → ch.pages.Nodup →
    (ch.state = .active ∨ ch.state = .handoverPending ∨ ch.state = .orphaned) → ch.retune = some r →
    t.chan c = { ch with
        nf := r.nf, d := r.d, retune := none, charge := ch.nn + r.nf, pages := ch.pages.take z.pageCount
        filled := min ch.filled ring, writePos := min ch.filled ring % ring
        far := { ch.far with
          taps := (List.range r.nf).map fun i => if ch.d ≤ i + r.d then ch.far.taps.getD (i + r.d - ch.d) 0 else 0
          gear := if ch.state = .orphaned then (if resized ch.far.resume = .off then .off else .hold)
            else resized ch.far.gear
          resume := if ch.state = .orphaned then resized ch.far.resume else ch.far.resume } } ∧
    (∀ j, (t.chan c).sampleOfAge t.pool j = if j < ring then ch.sampleOfAge s.pool j else 0) ∧
    (∀ a, a / 256 ∉ ch.pages.map Fin.val → t.pool.read a = s.pool.read a) ∧
    (∀ i, t.port i = if r.requester = some i then
        (s.port i).completes .setFar (fieldOfChan c) .ok
          [place r.nf 0 8 ||| place r.d 16 16, place z.pageCount 0 8 ||| place (ch.nn + r.nf) 16 16]
      else s.port i) ∧
    { t with channels := s.channels, links := s.links, pool := s.pool } =
      { s with
        freeList := s.freeList ++ ch.pages.drop z.pageCount, echoUsed := s.echoUsed - ch.charge + (ch.nn + r.nf) } ∧
    ∀ c', c' ≠ c → t.chan c' = s.chan c'

/-! ### Receive blocks and delivery (chapter 5) -/

/-- R80 to R83: a closed rx block takes the next rx sequence number and joins the rx queue, due to the holder and the
copy destination; with neither it is discarded. A full queue drops its oldest entry, counted, latched and told RX_OVERRUN
with the dropped sequence number. -/
def Obligations.ClosedRxBlocksJoinTheQueue : Prop :=
  ∀ (c : Chan) (samples : List Sample) (s : State),
    let ch := s.chan c
    let due := ch.holder.toList ++ ch.copy.toList
    let entry : RxEntry := { seq := ch.nextRx, samples := samples, due := due }
    (due = [] → s.closeRxBlock c samples = s.setChan c { ch with asm := [], nextRx := ch.nextRx + 1 }) ∧
    (due ≠ [] → ch.rxq.length < 8 →
      s.closeRxBlock c samples = s.setChan c { ch with asm := [], nextRx := ch.nextRx + 1, rxq := ch.rxq ++ [entry] }) ∧
    (∀ e es, due ≠ [] → due.Nodup → ch.rxq = e :: es → 8 ≤ ch.rxq.length →
      let t := s.closeRxBlock c samples
      { t with links := s.links } = s.setChan c { ch with
          asm := [], nextRx := ch.nextRx + 1, rxq := es ++ [entry], flags := ch.flags ||| 16
          cnt := { ch.cnt with rxBlocksDropped := stick16 ch.cnt.rxBlocksDropped } } ∧
      ∀ i, t.port i = if ch.mask.getLsbD 5 = true ∧ i ∈ due then
          (s.port i).told { chan := fieldOfChan c, body := .rxOverrun e.seq } else s.port i)

/-- R86, R87, R88: an idle transmitter of a link that is not DOWN takes the oldest response, else the oldest notice, else
the oldest ready EQ_OUT, whose job is then SENDING, else the oldest rx block due to the link of the first channel, in
cyclic order from the one after the last served, that has one, else the unsent watch data. The link's mark leaves the
block's pending set, and an entry due to nobody leaves its queue. With nothing to send it stays idle. -/
def Obligations.TransmitterSendsByPriority : Prop :=
  ∀ (l : Link) (s : State),
    let p := s.port l
    p.state ≠ .down → p.tx = .idle →
    (∀ r rs, p.responses = r :: rs →
      exec (.transmitStart l) s = .next (s.setPort l { p with tx := .sending (.response r), responses := rs })) ∧
    (∀ n ns, p.responses = [] → p.notices = n :: ns →
      exec (.transmitStart l) s = .next (s.setPort l { p with tx := .sending (.notice n), notices := ns })) ∧
    (∀ k ks j r, p.responses = [] → p.notices = [] → p.ready = k :: ks → j ∈ p.jobs → j.place = k →
      (p.jobs.map Job.place).Nodup → j.state = .ready r →
      exec (.transmitStart l) s = .next (s.setPort l { p with
        tx := .sending (.eqOut j.tag j.chan r (some k)), ready := ks
        jobs := p.jobs.map fun i => if i.place = k then { i with state := .sending r } else i })) ∧
    (∀ (n : Chan) (before after : List RxEntry) (e : RxEntry),
      let c := p.lastServed + 1 + n
      p.responses = [] → p.notices = [] → p.ready = [] →
      (∀ d : Chan, d < n → ∀ x ∈ (s.chan (p.lastServed + 1 + d)).rxq, l ∉ x.due) →
      (s.chan c).rxq = before ++ e :: after → (∀ x ∈ before, l ∉ x.due) → l ∈ e.due →
      exec (.transmitStart l) s = .next
        ((s.setChan c { s.chan c with
          rxq := before ++ (if e.due.filter (· ≠ l) = [] then after
            else { e with due := e.due.filter (· ≠ l) } :: after) }).setPort l
            { p with tx := .sending (.rxBlock c e.seq e.samples), lastServed := c })) ∧
    (p.responses = [] → p.notices = [] → p.ready = [] → (∀ c, ∀ x ∈ (s.chan c).rxq, l ∉ x.due) →
      exec (.transmitStart l) s = .next (match p.watchData with
        | some d => s.setPort l { p with tx := .sending (.watchData d), watchData := none }
        | none => s))

/-- R89, R128, R148: the completion of a message makes the transmitter idle. A response's releases its intake entry, an
EQ_OUT's its job slot; a notice's, if notices were lost and the queue has room, places NOTICES_LOST with their count.
The RESYNC pair of a link that became UP ends likewise. An idle transmitter completes nothing. R147, R151: a notice
joins the tail of a queue of fewer than 16; on a full queue it is lost, and both the lost count and the link's counter
of lost notices rise, stopping at 65,535. That NOTICES_LOST has channel field 63 is assumption 16 (DEDUCED), that an idle
transmitter completes nothing assumption 9 (DESIGN CHOICE). -/
def Obligations.MessageCompletionFreesWhatWasSent : Prop :=
  (∀ (l : Link) (s : State),
    let p := s.port l
    (∀ r, p.tx = .sending (.response r) →
      exec (.messageCompletion l) s = .next (s.setPort l { p with
        tx := .idle, intake := p.intake.filter fun e => decide (some e.place ≠ r.entry) })) ∧
    (∀ n, p.tx = .sending (.notice n) →
      exec (.messageCompletion l) s = .next (s.setPort l (if p.lost ≠ 0 ∧ p.notices.length < 16 then
        { p with tx := .idle, lost := 0, notices := p.notices ++ [{ chan := 63, body := .noticesLost p.lost }] }
        else { p with tx := .idle }))) ∧
    (∀ tag ch r k, p.tx = .sending (.eqOut tag ch r k) →
      exec (.messageCompletion l) s = .next (s.setPort l { p with
        tx := .idle, jobs := p.jobs.filter fun j => decide (some j.place ≠ k) })) ∧
    (∀ c q b, p.tx = .sending (.rxBlock c q b) →
      exec (.messageCompletion l) s = .next (s.setPort l { p with tx := .idle })) ∧
    (∀ d, p.tx = .sending (.watchData d) →
      exec (.messageCompletion l) s = .next (s.setPort l { p with tx := .idle })) ∧
    (p.tx = .resyncPair → exec (.resyncPairSent l) s = .next (s.setPort l { p with tx := .idle })) ∧
    (p.tx = .idle → exec (.messageCompletion l) s = .next s ∧ exec (.resyncPairSent l) s = .next s)) ∧
  (∀ (p : LinkPort) (n : Notice),
    let more (x : BitVec 16) : BitVec 16 := BitVec.ofNat 16 (min 65535 (x.toNat + 1))
    (p.notices.length < 16 → p.putNotice n = { p with notices := p.notices ++ [n] }) ∧
    (16 ≤ p.notices.length → p.putNotice n = { p with lost := more p.lost, noticesLost := more p.noticesLost }))

/-! ### Pump links (chapter 8) -/

/-- R134: a LINK_CONFIG with channel field 63 stores the silence setting, clamped to 255, and restarts the timer with it,
or stops it for 0. -/
def Obligations.LinkConfigSetsTheSilenceTimer : Prop :=
  ∀ (l : Link) (k : Fin 4) (tag : Tag) (w : Word) (s : State),
    let ms := min 255 (w.toNat % 65536)
    s.Serves l k →
    exec (.linkConfig l 63 tag w) s = .next
      ((s.updPort l fun p => { p.replied k { kind := .linkConfig, chan := 63, tag := tag, payload := [w] } .ok
          [BitVec.ofNat 32 ms] with setting := ms, timer := decide (ms ≠ 0) }))

/-- R128, R130, R131, R132: on an UP link a malformed header is counted, and the fourth in a row takes the link
OUT_OF_STEP; a RESYNC pair makes the link UP, zeroes the run and restarts the silence timer, and a DOWN link first sends
its own pair. The next word is at a header position, after a RESYNC pair one where further all-ones words extend it; a
link OUT_OF_STEP has no word alignment. A malformed header on a link that is not UP, and anything while the pin is
asserted, has no effect. -/
def Obligations.LinksGoUpAndOutOfStep : Prop :=
  ∀ (l : Link) (s : State),
    let p := s.port l
    (s.pin = false → p.state = .up →
      exec (.malformedHeader l) s = .next (s.setPort l { p with
        malformedMessages := stick16 p.malformedMessages
        malformedRun := if 3 ≤ p.malformedRun then 0 else p.malformedRun + 1
        state := if 3 ≤ p.malformedRun then .outOfStep else .up
        framing := if 3 ≤ p.malformedRun then .unaligned 0 else .header, part := [] })) ∧
    (s.pin = false →
      exec (.resync l) s = .next (s.setPort l { p with
        state := .up, framing := .extended, part := [], malformedRun := 0, timer := decide (p.setting ≠ 0)
        tx := if p.state = .down then .resyncPair else p.tx })) ∧
    (s.pin = true ∨ p.state ≠ .up → exec (.malformedHeader l) s = .next s) ∧
    (s.pin = true → exec (.resync l) s = .next s)

/-- R11, R68, R69, R74, R84, R109, R114, R122, R125, R133, R135: when a running silence timer expires its link goes DOWN. The
port loses all but its setting, counters and last-served channel; its held commands go, and a running job of it loses its
slot. Each channel loses the link from its rx queue, retune, offer, copies and holder; a running channel without holder
is ORPHANED, its runs 0 (assumption 26, DEDUCED). Another port changes only by the notices of the channels, in rising
order, ORPHANED among them also during a device clear (assumption 15, DEDUCED). A timer that does not run does not expire
(assumption 9, DESIGN CHOICE). -/
def Obligations.SilenceTakesTheLinkDown : Prop :=
  ∀ (l : Link) (s : State),
    let p := s.port l
    let held (f : Filter) : Filter := { f with resume := f.gear, gear := if f.gear = .off then .off else .hold }
    let freed (ch : Channel) : Channel :=
      let lost := (ch.offer.map Offer.target) = some l
      let saved := if ch.saved = some l then none else ch.saved
      let copy := if lost then saved else ch.copy
      { ch with
        rxq := (ch.rxq.map fun e => { e with due := e.due.filter fun i => decide (i ≠ l) }).filter
          fun e => decide (e.due ≠ [])
        retune := ch.retune.map fun r => { r with requester := if r.requester = some l then none else r.requester }
        state := if lost ∧ ch.state = .handoverPending then .active else ch.state
        offer := if lost then none else ch.offer
        copy := if (lost ∨ ch.offer = none) ∧ copy = some l then none else copy
        saved := if lost then none else saved }
    let after (ch : Channel) : Channel :=
      let f := freed ch
      if ch.holder = some l then
        if f.state = .active ∨ f.state = .handoverPending then
          { f with
            state := .orphaned, holder := none, near := held f.near, far := held f.far
            eq := f.eq.map fun q => { q with resume := q.mode, mode := .hold }, convRun := 0, divRun := 0 }
        else { f with holder := none }
      else f
    let notices (i : Link) (c : Chan) : List Notice :=
      let ch := s.chan c
      (if (ch.offer.map Offer.target) = some l ∧ ch.holder = some i then
        [{ chan := fieldOfChan c, body := .handoverFailed l .targetDown }] else []) ++
      (if ch.holder = some l ∧ (ch.state = .active ∨ ch.state = .handoverPending) then
        [{ chan := fieldOfChan c
           body := .orphaned (some l) ((freed ch).offer.map Offer.target) ch.play.e ch.nextRx }] else [])
    (p.state ≠ .down → p.timer = true →
      ∃ t, exec (.silenceTimerExpiry l) s = .next t ∧
        { t with channels := s.channels, links := s.links } =
          { s with
            engine := s.engine.map fun j => if j.link = l then { j with place := none } else j
            held := s.held.filter fun h => decide (h.link ≠ l) } ∧
        t.port l = { LinkPort.powerOn with
          setting := p.setting, lastServed := p.lastServed, malformedMessages := p.malformedMessages
          commandsDropped := p.commandsDropped, foreignBlocks := p.foreignBlocks, noticesLost := p.noticesLost } ∧
        (∀ c, t.chan c = after (s.chan c)) ∧
        ∀ i, i ≠ l → t.port i = ((List.finRange 48).flatMap (notices i)).foldl LinkPort.told (s.port i)) ∧
    (p.state = .down ∨ p.timer = false → exec (.silenceTimerExpiry l) s = .next s)

/-! ### The highway (chapter 2) -/

/-- R23, R24, R25: the monitor while ABSENT. A sync inside the window of the last one continues the run of good syncs,
the eighth locks the monitor and tells every link; any other starts a run of 1; a window that closes without a sync
ends the run. While the pin is asserted nothing counts. A late sync is judged as the model's choice of assumption 11. -/
def Obligations.EightGoodSyncsLockTheMonitor : Prop :=
  ∀ (i : Instr) (t : Nat) (inbound : Vector Sample 64) (s : State),
    i = .frameSync t inbound ∨ i = .frameArrival t inbound →
    let good : Prop := ∃ r, s.reference = some r ∧ r + 2040 ≤ t ∧ t ≤ r + 2056
    (s.pin = true → exec i s = .next s ∧ exec .syncWindowClose s = .next s) ∧
    (s.pin = false → s.locked = false →
      (¬ good → exec i s = .next { s with goodRun := 1, reference := some t }) ∧
      (good → s.goodRun < 7 → exec i s = .next { s with goodRun := s.goodRun + 1, reference := some t }) ∧
      (good → 7 ≤ s.goodRun → ∃ u, exec i s = .next u ∧
        { u with links := s.links } =
          { s with locked := true, goodRun := 8, missedRun := 0, reference := some (t + 2048) } ∧
        ∀ l, u.port l = (s.port l).told { chan := 63, body := .highwayLocked }) ∧
      exec .syncWindowClose s = .next { s with goodRun := 0, reference := none })

/-- R25, R26, R27, R31: the monitor while LOCKED. A sync within 8 periods of the expected time is a frame arrival: the
outbound slots carry the idle values of OPENING channels, and every running channel runs its frame operation once, in an
order the manual leaves open (assumption 4); during a reset no channel runs. Any other sync is ignored. One missed sync
drives no slot; the second in a row takes the monitor ABSENT and tells every link. -/
def Obligations.LockedMonitorRunsFramesOnTime : Prop :=
  ∀ (i : Instr) (t r : Nat) (inbound : Vector Sample 64) (s : State),
    i = .frameSync t inbound ∨ i = .frameArrival t inbound → s.pin = false → s.locked = true → s.reference = some r →
    let idle : Vector (Option Sample) 64 := Vector.ofFn fun k =>
      match s.slotMap[k] with
      | some c => if s.clear = .none ∧ (s.chan c).state = .opening then some (s.chan c).idle else none
      | none => none
    let none' : Vector (Option Sample) 64 := Vector.replicate 64 none
    (r ≤ t + 8 → t ≤ r + 8 → s.AccountsSound →
      ∃ order : List Chan, order.Nodup ∧
        (∀ c, c ∈ order ↔ s.clear = .none ∧
          ((s.chan c).state = .active ∨ (s.chan c).state = .handoverPending ∨ (s.chan c).state = .orphaned)) ∧
        exec i s = .next (order.foldl (State.frameOp inbound) { s with
          missedRun := 0, reference := some (t + 2048), outbound := idle, freeCount := s.freeCount + 1 })) ∧
    (t + 8 < r ∨ r + 8 < t → exec i s = .next s) ∧
    (s.missedRun = 0 → exec .syncWindowClose s =
      .next { s with missedRun := 1, reference := some (r + 2048), outbound := none' }) ∧
    (1 ≤ s.missedRun → ∃ u, exec .syncWindowClose s = .next u ∧
      { u with links := s.links } =
        { s with locked := false, goodRun := 0, missedRun := 0, reference := none, outbound := none' } ∧
      ∀ l, u.port l = (s.port l).told { chan := 63, body := .highwayLost })

/-! ### Resets (chapters 1, 6 and 8) -/

/-- R22, R110, R139, R140: a RESET_DEVICE while another link holds a channel is refused IN_USE. Otherwise the device
clear runs: the requester's entry is IN_PROGRESS, every other entry, response, notice, job, watch and counter of every
link is gone, a message being sent frees nothing any more, the engine is idle, and every channel's rx queue and
assembling block are discarded. -/
def Obligations.ResetDeviceStopsThePart : Prop :=
  ∀ (l : Link) (k : Fin 4) (tag : Tag) (s : State),
    let m : CmdMsg := { kind := .resetDevice, chan := 63, tag := tag, payload := [] }
    let held : Prop := ∃ c, ((s.chan c).state = .active ∨ (s.chan c).state = .handoverPending ∨
      (s.chan c).state = .opening) ∧ ∃ h, (s.chan c).holder = some h ∧ h ≠ l
    let emptied (p : LinkPort) : LinkPort :=
      { p with
        responses := [], notices := [], lost := 0, jobs := [], ready := [], watch := none, watchData := none
        tx := match p.tx with
          | .sending (.response r) => .sending (.response { r with entry := none })
          | .sending (.eqOut tag chan r _) => .sending (.eqOut tag chan r none)
          | x => x
        malformedMessages := 0, commandsDropped := 0, foreignBlocks := 0, noticesLost := 0 }
    s.Serves l k →
    (held → exec (.resetDevice l 63 tag) s = .next (s.replies l k m .inUse [])) ∧
    (¬ held → ∃ t, exec (.resetDevice l 63 tag) s = .next t ∧
      { t with channels := s.channels, links := s.links } = { s with clear := .device, engine := none, held := [] } ∧
      (∀ c, t.chan c = { s.chan c with rxq := [], asm := [] }) ∧
      ∀ i, t.port i = if i = l then
          { emptied (s.port i).heard with intake := [{ place := k, msg := m, state := .inProgress }] }
        else { emptied (s.port i) with intake := [] })

/-- R22, R110, R142, R143: the completion of a device clear or a power-on clear leaves every channel FREE, no slot
taken, both budgets unused, every page free in rising order, the History Pool all zero and the engine idle, link 0 first
in turn. A device clear's answers the RESET_DEVICE still held and tells every link RESET_DONE; a power-on clear's tells
nobody. Without its clear running neither has an effect. R22, R23, R59, R78, R86, R110, R127, R143: power-on and the
reset pin leave every link DOWN with a silence setting of 50 and nothing queued, the monitor ABSENT, no slot driven,
every channel FREE; the power-on clear begins at power-on or at the pin's release, and while the pin is asserted none
runs. That the values are there at once, and that power-on under an asserted pin leaves the clear to the release, is
assumption 14 (DEDUCED); that an event whose condition does not hold has no effect, assumption 9 (DESIGN CHOICE). -/
def Obligations.ClearsAndPowerOnLeaveTheResetValues : Prop :=
  (∀ (s : State),
    let cleared (t : State) : State :=
      { s with
        channels := Vector.replicate 48 Channel.free, slotMap := Vector.replicate 64 none, echoUsed := 0, eqUsed := 0
        freeList := List.finRange 128, pool := [], engine := none, eqLast := 3, held := [], clear := .none
        links := t.links }
    (s.clear = .device → ∃ t, exec .deviceClearComplete s = .next t ∧ t = cleared t ∧
      ∀ i, t.port i =
        ((s.port i).completes .resetDevice 63 .ok []).told { chan := 63, body := .resetDone }) ∧
    (s.clear = .powerOn → exec .powerOnClearComplete s = .next (cleared s)) ∧
    (s.clear ≠ .device → exec .deviceClearComplete s = .next s) ∧
    (s.clear ≠ .powerOn → exec .powerOnClearComplete s = .next s)) ∧
  (∀ (s : State),
    let fresh (pin : Bool) (clear : Clear) : State :=
      { channels := Vector.replicate 48 Channel.free, slotMap := Vector.replicate 64 none, echoUsed := 0, eqUsed := 0
        freeList := List.finRange 128, pool := [], engine := none, eqLast := 3, held := []
        links := Vector.replicate 4
          { state := .down, framing := .unaligned 0, part := [], malformedRun := 0, setting := 50, timer := false
            intake := [], responses := [], notices := [], lost := 0, tx := .idle, lastServed := 47, jobs := []
            ready := [], watch := none, watchData := none, malformedMessages := 0, commandsDropped := 0
            foreignBlocks := 0, noticesLost := 0 }
        locked := false, goodRun := 0, missedRun := 0, reference := none, outbound := Vector.replicate 64 none, pin := pin
        clear := clear, freeCount := s.freeCount, pending := s.pending }
    exec .powerOn s = .next (fresh s.pin (if s.pin then .none else .powerOn)) ∧
    exec .resetPinAssert s = .next (fresh true .none) ∧
    (s.pin = true → exec .resetPinRelease s = .next (fresh false .powerOn)) ∧
    (s.pin = false → exec .resetPinRelease s = .next s))

/-- Table 6, R1, R22, R55, R63, R79, R145, R151: what a FREE channel's record holds: no holder, slot, page or filter tap,
both filters and auto-shift at their defaults, an empty PRIMING playout, power estimates and counters 0. The state after
reset is sound. The choice of assumption 1 is only which moment counts as reset: the completion of the power-on clear. -/
def Obligations.ResetIsSoundWithTheDefaults : Prop :=
  (∀ c, let ch := State.reset.chan c
    ch.state = .free ∧ ch.holder = none ∧ ch.copy = none ∧ ch.saved = none ∧ ch.offer = none ∧ ch.slot = none ∧
    ch.pages = [] ∧ ch.charge = 0 ∧ (ch.nn, ch.nf, ch.d) = (0, 0, 0) ∧ ch.retune = none ∧ ch.eq = none ∧
    (∀ f ∈ [ch.near, ch.far], f = { taps := [], gear := .off, resume := .off, trainM := 14, trackM := 18, leak := 0 }) ∧
    (ch.autoNear, ch.autoFar, ch.c, ch.convBlocks, ch.divBlocks, ch.floor) = (true, true, 6, 32, 8, 4096) ∧
    (ch.py, ch.pe, ch.convRun, ch.divRun, ch.writePos, ch.filled) = (0, 0, 0, 0, 0, 0) ∧
    ch.play.state = .priming ∧ ch.play.depth = 0 ∧ (ch.play.startDepth, ch.play.lowWater, ch.play.fill) = (3, 1, .zeros) ∧
    ch.asm = [] ∧ ch.nextRx = 0 ∧ ch.rxq = [] ∧ ch.mask = 0x27 ∧ ch.flags = 0 ∧ (∀ x ∈ ch.cnt.words, x = 0)) ∧
  (State.reset.Sound)

/-! ### Invariants -/

/-- R18: the History Pool's storage stays in its canonical form over the pool's 32,768 samples. R1, R16 to R20: slots,
pages and the echo budget stay accounted for. -/
def Obligations.EveryStepKeepsPoolAndAccounts : Prop :=
  (∀ s t : State, s.PoolSound → step s = .next t → t.PoolSound) ∧
  (∀ s t : State, s.AccountsSound → step s = .next t → t.AccountsSound)

/-- R6, R32, R44, R45, R55, R61, R63, R68, R69, R70: every channel record stays within its ranges, and an ORPHANED one in
the orphan hold, no echo filter adapting and both runs 0. -/
def Obligations.EveryStepKeepsTheChannelRanges : Prop :=
  ∀ s t : State, s.ChannelsSound → step s = .next t → t.ChannelsSound

/-- R74, R81, R84, R112, R115, R118, R125: holders, copy destinations, offers and pending sets stay consistent, and none
is a link that is DOWN. -/
def Obligations.EveryStepKeepsTheRoles : Prop :=
  ∀ s t : State, s.RolesSound → step s = .next t → t.RolesSound

/-- R87, R95, R98, R130, R131, R133, R135, R136, R147: every link port stays within its limits, its inbound stream with
word alignment exactly while it is UP, and the engine's job RUNNING in its slot. -/
def Obligations.EveryStepKeepsThePorts : Prop :=
  ∀ s t : State, s.PortsSound → step s = .next t → t.PortsSound

/-- R91, R97, R98, R105: EQ contexts stay within their ranges and their budget, and queued and running jobs have theirs,
from states whose roles are sound (the invariant of EveryStepKeepsTheRoles). -/
def Obligations.EveryStepKeepsTheEqualizer : Prop :=
  ∀ s t : State, s.RolesSound → s.EqSound → step s = .next t → t.EqSound
end

