-- ==== Sys2Proof/Laws/State.lean ====
section
/-! SUPPORT. Reading a state after an update: one lemma per field per update, all true by unfolding, so that no later
proof unfolds a record update; and what `setChan`, `setPort` and their kin do to the record or the port they name. -/

namespace Sys2Proof.Machine

variable (s : State) (c c' : Chan) (l l' : Link) (x y : Channel) (p q : LinkPort)
variable (f g : Channel → Channel) (h : LinkPort → LinkPort)

/-! ### Records and ports -/

@[simp] theorem State.chan_setChan : (s.setChan c x).chan c = x := by simp [State.chan, State.setChan]

theorem State.chan_setChan_ne (hc : c' ≠ c) : (s.setChan c x).chan c' = s.chan c' := by
  simp [State.chan, State.setChan, Fin.val_inj, Ne.symm hc]

theorem State.chan_setChan_ite : (s.setChan c x).chan c' = if c' = c then x else s.chan c' := by
  by_cases hc : c' = c
  · subst hc; simp
  · simp [hc, State.chan_setChan_ne]

@[simp] theorem State.port_setPort : (s.setPort l p).port l = p := by simp [State.port, State.setPort]

theorem State.port_setPort_ne (hl : l' ≠ l) : (s.setPort l p).port l' = s.port l' := by
  simp [State.port, State.setPort, Fin.val_inj, Ne.symm hl]

theorem State.port_setPort_ite : (s.setPort l p).port l' = if l' = l then p else s.port l' := by
  by_cases hl : l' = l
  · subst hl; simp
  · simp [hl, State.port_setPort_ne]

@[simp] theorem State.port_setChan : (s.setChan c x).port l = s.port l := rfl
@[simp] theorem State.chan_setPort : (s.setPort l p).chan c = s.chan c := rfl

@[simp] theorem State.chan_updChan : (s.updChan c f).chan c = f (s.chan c) := by simp [State.updChan]

theorem State.chan_updChan_ne (hc : c' ≠ c) : (s.updChan c f).chan c' = s.chan c' := by
  simp [State.updChan, State.chan_setChan_ne, hc]

theorem State.chan_updChan_ite : (s.updChan c f).chan c' = if c' = c then f (s.chan c) else s.chan c' := by
  simp [State.updChan, State.chan_setChan_ite]

@[simp] theorem State.port_updPort : (s.updPort l h).port l = h (s.port l) := by simp [State.updPort]

theorem State.port_updPort_ne (hl : l' ≠ l) : (s.updPort l h).port l' = s.port l' := by
  simp [State.updPort, State.port_setPort_ne, hl]

theorem State.port_updPort_ite : (s.updPort l h).port l' = if l' = l then h (s.port l) else s.port l' := by
  simp [State.updPort, State.port_setPort_ite]

@[simp] theorem State.port_updChan : (s.updChan c f).port l = s.port l := rfl
@[simp] theorem State.chan_updPort : (s.updPort l h).chan c = s.chan c := rfl

@[simp] theorem State.port_updPorts : (s.updPorts h).port l = h (s.port l) := by
  fin_cases l <;> rfl

@[simp] theorem State.chan_updPorts : (s.updPorts h).chan c = s.chan c := rfl

/-! ### Updates over updates -/

@[simp] theorem State.setChan_setChan : (s.setChan c x).setChan c y = s.setChan c y := by simp [State.setChan]

@[simp] theorem State.setChan_chan : s.setChan c (s.chan c) = s := by simp [State.setChan, State.chan]

@[simp] theorem State.setPort_setPort : (s.setPort l p).setPort l q = s.setPort l q := by simp [State.setPort]

@[simp] theorem State.setPort_port : s.setPort l (s.port l) = s := by simp [State.setPort, State.port]

theorem State.setPort_setChan : (s.setChan c x).setPort l p = (s.setPort l p).setChan c x := rfl

theorem State.updPort_updChan : (s.updChan c f).updPort l h = (s.updPort l h).updChan c f := rfl

@[simp] theorem State.updChan_updChan : (s.updChan c f).updChan c g = s.updChan c (fun r => g (f r)) := by
  simp [State.updChan]

@[simp] theorem State.updPort_updPort (h' : LinkPort → LinkPort) :
    (s.updPort l h).updPort l h' = s.updPort l (fun r => h' (h r)) := by
  simp [State.updPort]

/-- Two states with the same ports and the same other fields are the same. -/
theorem State.ext_ports {s t : State} (hp : ∀ l, s.port l = t.port l) (hr : { s with links := t.links } = t) : s = t := by
  have hl : s.links = t.links := by
    ext i hi
    exact hp ⟨i, hi⟩
  rw [← hr, ← hl]

/-- Two states with the same records and the same other fields are the same. -/
theorem State.ext_chans {s t : State} (hp : ∀ c, s.chan c = t.chan c) (hr : { s with channels := t.channels } = t) :
    s = t := by
  have hl : s.channels = t.channels := by
    ext i hi
    exact hp ⟨i, hi⟩
  rw [← hr, ← hl]

/-! ### Other fields -/

@[simp] theorem State.slotMap_setChan : (s.setChan c x).slotMap = s.slotMap := rfl
@[simp] theorem State.echoUsed_setChan : (s.setChan c x).echoUsed = s.echoUsed := rfl
@[simp] theorem State.freeList_setChan : (s.setChan c x).freeList = s.freeList := rfl
@[simp] theorem State.pool_setChan : (s.setChan c x).pool = s.pool := rfl
@[simp] theorem State.eqUsed_setChan : (s.setChan c x).eqUsed = s.eqUsed := rfl
@[simp] theorem State.engine_setChan : (s.setChan c x).engine = s.engine := rfl
@[simp] theorem State.eqLast_setChan : (s.setChan c x).eqLast = s.eqLast := rfl
@[simp] theorem State.held_setChan : (s.setChan c x).held = s.held := rfl
@[simp] theorem State.locked_setChan : (s.setChan c x).locked = s.locked := rfl
@[simp] theorem State.goodRun_setChan : (s.setChan c x).goodRun = s.goodRun := rfl
@[simp] theorem State.missedRun_setChan : (s.setChan c x).missedRun = s.missedRun := rfl
@[simp] theorem State.reference_setChan : (s.setChan c x).reference = s.reference := rfl
@[simp] theorem State.outbound_setChan : (s.setChan c x).outbound = s.outbound := rfl
@[simp] theorem State.pin_setChan : (s.setChan c x).pin = s.pin := rfl
@[simp] theorem State.clear_setChan : (s.setChan c x).clear = s.clear := rfl
@[simp] theorem State.freeCount_setChan : (s.setChan c x).freeCount = s.freeCount := rfl
@[simp] theorem State.pending_setChan : (s.setChan c x).pending = s.pending := rfl
@[simp] theorem State.links_setChan : (s.setChan c x).links = s.links := rfl

@[simp] theorem State.slotMap_updChan : (s.updChan c f).slotMap = s.slotMap := rfl
@[simp] theorem State.echoUsed_updChan : (s.updChan c f).echoUsed = s.echoUsed := rfl
@[simp] theorem State.freeList_updChan : (s.updChan c f).freeList = s.freeList := rfl
@[simp] theorem State.pool_updChan : (s.updChan c f).pool = s.pool := rfl
@[simp] theorem State.eqUsed_updChan : (s.updChan c f).eqUsed = s.eqUsed := rfl
@[simp] theorem State.engine_updChan : (s.updChan c f).engine = s.engine := rfl
@[simp] theorem State.eqLast_updChan : (s.updChan c f).eqLast = s.eqLast := rfl
@[simp] theorem State.held_updChan : (s.updChan c f).held = s.held := rfl
@[simp] theorem State.locked_updChan : (s.updChan c f).locked = s.locked := rfl
@[simp] theorem State.goodRun_updChan : (s.updChan c f).goodRun = s.goodRun := rfl
@[simp] theorem State.missedRun_updChan : (s.updChan c f).missedRun = s.missedRun := rfl
@[simp] theorem State.reference_updChan : (s.updChan c f).reference = s.reference := rfl
@[simp] theorem State.outbound_updChan : (s.updChan c f).outbound = s.outbound := rfl
@[simp] theorem State.pin_updChan : (s.updChan c f).pin = s.pin := rfl
@[simp] theorem State.clear_updChan : (s.updChan c f).clear = s.clear := rfl
@[simp] theorem State.freeCount_updChan : (s.updChan c f).freeCount = s.freeCount := rfl
@[simp] theorem State.pending_updChan : (s.updChan c f).pending = s.pending := rfl
@[simp] theorem State.links_updChan : (s.updChan c f).links = s.links := rfl

@[simp] theorem State.slotMap_setPort : (s.setPort l p).slotMap = s.slotMap := rfl
@[simp] theorem State.echoUsed_setPort : (s.setPort l p).echoUsed = s.echoUsed := rfl
@[simp] theorem State.freeList_setPort : (s.setPort l p).freeList = s.freeList := rfl
@[simp] theorem State.pool_setPort : (s.setPort l p).pool = s.pool := rfl
@[simp] theorem State.eqUsed_setPort : (s.setPort l p).eqUsed = s.eqUsed := rfl
@[simp] theorem State.engine_setPort : (s.setPort l p).engine = s.engine := rfl
@[simp] theorem State.eqLast_setPort : (s.setPort l p).eqLast = s.eqLast := rfl
@[simp] theorem State.held_setPort : (s.setPort l p).held = s.held := rfl
@[simp] theorem State.locked_setPort : (s.setPort l p).locked = s.locked := rfl
@[simp] theorem State.goodRun_setPort : (s.setPort l p).goodRun = s.goodRun := rfl
@[simp] theorem State.missedRun_setPort : (s.setPort l p).missedRun = s.missedRun := rfl
@[simp] theorem State.reference_setPort : (s.setPort l p).reference = s.reference := rfl
@[simp] theorem State.outbound_setPort : (s.setPort l p).outbound = s.outbound := rfl
@[simp] theorem State.pin_setPort : (s.setPort l p).pin = s.pin := rfl
@[simp] theorem State.clear_setPort : (s.setPort l p).clear = s.clear := rfl
@[simp] theorem State.freeCount_setPort : (s.setPort l p).freeCount = s.freeCount := rfl
@[simp] theorem State.pending_setPort : (s.setPort l p).pending = s.pending := rfl
@[simp] theorem State.channels_setPort : (s.setPort l p).channels = s.channels := rfl

@[simp] theorem State.slotMap_updPort : (s.updPort l h).slotMap = s.slotMap := rfl
@[simp] theorem State.echoUsed_updPort : (s.updPort l h).echoUsed = s.echoUsed := rfl
@[simp] theorem State.freeList_updPort : (s.updPort l h).freeList = s.freeList := rfl
@[simp] theorem State.pool_updPort : (s.updPort l h).pool = s.pool := rfl
@[simp] theorem State.eqUsed_updPort : (s.updPort l h).eqUsed = s.eqUsed := rfl
@[simp] theorem State.engine_updPort : (s.updPort l h).engine = s.engine := rfl
@[simp] theorem State.eqLast_updPort : (s.updPort l h).eqLast = s.eqLast := rfl
@[simp] theorem State.held_updPort : (s.updPort l h).held = s.held := rfl
@[simp] theorem State.locked_updPort : (s.updPort l h).locked = s.locked := rfl
@[simp] theorem State.goodRun_updPort : (s.updPort l h).goodRun = s.goodRun := rfl
@[simp] theorem State.missedRun_updPort : (s.updPort l h).missedRun = s.missedRun := rfl
@[simp] theorem State.reference_updPort : (s.updPort l h).reference = s.reference := rfl
@[simp] theorem State.outbound_updPort : (s.updPort l h).outbound = s.outbound := rfl
@[simp] theorem State.pin_updPort : (s.updPort l h).pin = s.pin := rfl
@[simp] theorem State.clear_updPort : (s.updPort l h).clear = s.clear := rfl
@[simp] theorem State.freeCount_updPort : (s.updPort l h).freeCount = s.freeCount := rfl
@[simp] theorem State.pending_updPort : (s.updPort l h).pending = s.pending := rfl
@[simp] theorem State.channels_updPort : (s.updPort l h).channels = s.channels := rfl

@[simp] theorem State.slotMap_updPorts : (s.updPorts h).slotMap = s.slotMap := rfl
@[simp] theorem State.echoUsed_updPorts : (s.updPorts h).echoUsed = s.echoUsed := rfl
@[simp] theorem State.freeList_updPorts : (s.updPorts h).freeList = s.freeList := rfl
@[simp] theorem State.pool_updPorts : (s.updPorts h).pool = s.pool := rfl
@[simp] theorem State.eqUsed_updPorts : (s.updPorts h).eqUsed = s.eqUsed := rfl
@[simp] theorem State.engine_updPorts : (s.updPorts h).engine = s.engine := rfl
@[simp] theorem State.eqLast_updPorts : (s.updPorts h).eqLast = s.eqLast := rfl
@[simp] theorem State.held_updPorts : (s.updPorts h).held = s.held := rfl
@[simp] theorem State.locked_updPorts : (s.updPorts h).locked = s.locked := rfl
@[simp] theorem State.goodRun_updPorts : (s.updPorts h).goodRun = s.goodRun := rfl
@[simp] theorem State.missedRun_updPorts : (s.updPorts h).missedRun = s.missedRun := rfl
@[simp] theorem State.reference_updPorts : (s.updPorts h).reference = s.reference := rfl
@[simp] theorem State.outbound_updPorts : (s.updPorts h).outbound = s.outbound := rfl
@[simp] theorem State.pin_updPorts : (s.updPorts h).pin = s.pin := rfl
@[simp] theorem State.clear_updPorts : (s.updPorts h).clear = s.clear := rfl
@[simp] theorem State.freeCount_updPorts : (s.updPorts h).freeCount = s.freeCount := rfl
@[simp] theorem State.pending_updPorts : (s.updPorts h).pending = s.pending := rfl
@[simp] theorem State.channels_updPorts : (s.updPorts h).channels = s.channels := rfl

/-! ### A port that has heard a message -/

@[simp] theorem LinkPort.state_atHeader : p.atHeader.state = p.state := rfl
@[simp] theorem LinkPort.malformedRun_atHeader : p.atHeader.malformedRun = p.malformedRun := rfl
@[simp] theorem LinkPort.timer_atHeader : p.atHeader.timer = p.timer := rfl
@[simp] theorem LinkPort.setting_atHeader : p.atHeader.setting = p.setting := rfl
@[simp] theorem LinkPort.intake_atHeader : p.atHeader.intake = p.intake := rfl
@[simp] theorem LinkPort.responses_atHeader : p.atHeader.responses = p.responses := rfl
@[simp] theorem LinkPort.notices_atHeader : p.atHeader.notices = p.notices := rfl
@[simp] theorem LinkPort.lost_atHeader : p.atHeader.lost = p.lost := rfl
@[simp] theorem LinkPort.tx_atHeader : p.atHeader.tx = p.tx := rfl
@[simp] theorem LinkPort.lastServed_atHeader : p.atHeader.lastServed = p.lastServed := rfl
@[simp] theorem LinkPort.jobs_atHeader : p.atHeader.jobs = p.jobs := rfl
@[simp] theorem LinkPort.ready_atHeader : p.atHeader.ready = p.ready := rfl
@[simp] theorem LinkPort.watch_atHeader : p.atHeader.watch = p.watch := rfl
@[simp] theorem LinkPort.watchData_atHeader : p.atHeader.watchData = p.watchData := rfl
@[simp] theorem LinkPort.malformedMessages_atHeader : p.atHeader.malformedMessages = p.malformedMessages := rfl
@[simp] theorem LinkPort.commandsDropped_atHeader : p.atHeader.commandsDropped = p.commandsDropped := rfl
@[simp] theorem LinkPort.foreignBlocks_atHeader : p.atHeader.foreignBlocks = p.foreignBlocks := rfl
@[simp] theorem LinkPort.noticesLost_atHeader : p.atHeader.noticesLost = p.noticesLost := rfl
@[simp] theorem LinkPort.framing_atHeader : p.atHeader.framing = .header := rfl
@[simp] theorem LinkPort.part_atHeader : p.atHeader.part = [] := rfl

@[simp] theorem LinkPort.state_heard : p.heard.state = p.state := rfl
@[simp] theorem LinkPort.setting_heard : p.heard.setting = p.setting := rfl
@[simp] theorem LinkPort.intake_heard : p.heard.intake = p.intake := rfl
@[simp] theorem LinkPort.responses_heard : p.heard.responses = p.responses := rfl
@[simp] theorem LinkPort.notices_heard : p.heard.notices = p.notices := rfl
@[simp] theorem LinkPort.lost_heard : p.heard.lost = p.lost := rfl
@[simp] theorem LinkPort.tx_heard : p.heard.tx = p.tx := rfl
@[simp] theorem LinkPort.lastServed_heard : p.heard.lastServed = p.lastServed := rfl
@[simp] theorem LinkPort.jobs_heard : p.heard.jobs = p.jobs := rfl
@[simp] theorem LinkPort.ready_heard : p.heard.ready = p.ready := rfl
@[simp] theorem LinkPort.watch_heard : p.heard.watch = p.watch := rfl
@[simp] theorem LinkPort.watchData_heard : p.heard.watchData = p.watchData := rfl
@[simp] theorem LinkPort.malformedMessages_heard : p.heard.malformedMessages = p.malformedMessages := rfl
@[simp] theorem LinkPort.commandsDropped_heard : p.heard.commandsDropped = p.commandsDropped := rfl
@[simp] theorem LinkPort.foreignBlocks_heard : p.heard.foreignBlocks = p.foreignBlocks := rfl
@[simp] theorem LinkPort.noticesLost_heard : p.heard.noticesLost = p.noticesLost := rfl
@[simp] theorem LinkPort.framing_heard : p.heard.framing = .header := rfl
@[simp] theorem LinkPort.part_heard : p.heard.part = [] := rfl
@[simp] theorem LinkPort.malformedRun_heard : p.heard.malformedRun = 0 := rfl
@[simp] theorem LinkPort.timer_heard : p.heard.timer = decide (p.setting ≠ 0) := rfl

end Sys2Proof.Machine
end

