-- ==== Sys2Proof/Laws/Ops.lean ====
section
/-! SUPPORT. What each shared operation can do, once: notices, answers and the arrival of a command. -/

namespace Sys2Proof.Machine

/-! ### States that differ in their ports alone -/

/-- `t` is `s` but for its ports. -/
def State.SameButPorts (s t : State) : Prop := { s with links := t.links } = t

theorem State.SameButPorts.rfl' (s : State) : s.SameButPorts s := rfl

theorem State.SameButPorts.trans {s t u : State} (h : s.SameButPorts t) (k : t.SameButPorts u) : s.SameButPorts u := by
  unfold State.SameButPorts at *
  rw [← k, ← h]

theorem State.sameButPorts_updPort (s : State) (l : Link) (f : LinkPort → LinkPort) : s.SameButPorts (s.updPort l f) := rfl

theorem State.sameButPorts_updPorts (s : State) (f : LinkPort → LinkPort) : s.SameButPorts (s.updPorts f) := rfl

theorem State.SameButPorts.channels {s t : State} (h : s.SameButPorts t) : t.channels = s.channels := by
  rw [← h]

theorem State.SameButPorts.slotMap {s t : State} (h : s.SameButPorts t) : t.slotMap = s.slotMap := by
  rw [← h]

theorem State.SameButPorts.echoUsed {s t : State} (h : s.SameButPorts t) : t.echoUsed = s.echoUsed := by
  rw [← h]

theorem State.SameButPorts.freeList {s t : State} (h : s.SameButPorts t) : t.freeList = s.freeList := by
  rw [← h]

theorem State.SameButPorts.pool {s t : State} (h : s.SameButPorts t) : t.pool = s.pool := by
  rw [← h]

theorem State.SameButPorts.eqUsed {s t : State} (h : s.SameButPorts t) : t.eqUsed = s.eqUsed := by
  rw [← h]

theorem State.SameButPorts.engine {s t : State} (h : s.SameButPorts t) : t.engine = s.engine := by
  rw [← h]

theorem State.SameButPorts.eqLast {s t : State} (h : s.SameButPorts t) : t.eqLast = s.eqLast := by
  rw [← h]

theorem State.SameButPorts.held {s t : State} (h : s.SameButPorts t) : t.held = s.held := by
  rw [← h]

theorem State.SameButPorts.locked {s t : State} (h : s.SameButPorts t) : t.locked = s.locked := by
  rw [← h]

theorem State.SameButPorts.goodRun {s t : State} (h : s.SameButPorts t) : t.goodRun = s.goodRun := by
  rw [← h]

theorem State.SameButPorts.missedRun {s t : State} (h : s.SameButPorts t) : t.missedRun = s.missedRun := by
  rw [← h]

theorem State.SameButPorts.reference {s t : State} (h : s.SameButPorts t) : t.reference = s.reference := by
  rw [← h]

theorem State.SameButPorts.outbound {s t : State} (h : s.SameButPorts t) : t.outbound = s.outbound := by
  rw [← h]

theorem State.SameButPorts.pin {s t : State} (h : s.SameButPorts t) : t.pin = s.pin := by
  rw [← h]

theorem State.SameButPorts.clear {s t : State} (h : s.SameButPorts t) : t.clear = s.clear := by
  rw [← h]

theorem State.SameButPorts.freeCount {s t : State} (h : s.SameButPorts t) : t.freeCount = s.freeCount := by
  rw [← h]

theorem State.SameButPorts.pending {s t : State} (h : s.SameButPorts t) : t.pending = s.pending := by
  rw [← h]

theorem State.SameButPorts.chan {s t : State} (h : s.SameButPorts t) (c : Chan) : t.chan c = s.chan c := by
  rw [State.chan, State.chan, h.channels]

/-- Two states that differ from one state in their ports alone, and have the same ports, are the same. -/
theorem State.SameButPorts.eq_of_ports {s t u : State} (h : s.SameButPorts t) (k : s.SameButPorts u)
    (hp : ∀ l, t.port l = u.port l) : t = u := by
  have hl : t.links = u.links := by
    ext i hi
    exact hp ⟨i, hi⟩
  unfold State.SameButPorts at h k
  rw [← h, ← k, hl]

/-! ### Notices -/

theorem State.notify_sameButPorts (s : State) (l : Link) (n : Notice) : s.SameButPorts (s.notify l n) := by
  unfold State.notify
  split
  · exact .rfl' s
  · exact s.sameButPorts_updPort l _

/-- A notice placed for a link reaches that port, unless the link is DOWN, and no other. -/
theorem State.port_notify (s : State) (l i : Link) (n : Notice) :
    (s.notify l n).port i = if i = l then (s.port i).told n else s.port i := by
  unfold State.notify State.isDown LinkPort.told
  by_cases hd : (s.port l).state = .down
  · by_cases hi : i = l
    · subst hi; simp [hd]
    · simp [hd, hi]
  · by_cases hi : i = l
    · subst hi; simp [hd]
    · simp [hd, hi, State.port_updPort_ne]

@[simp] theorem LinkPort.putNotice_state (p : LinkPort) (n : Notice) : (p.putNotice n).state = p.state := by
  unfold LinkPort.putNotice; split <;> rfl

@[simp] theorem LinkPort.told_state (p : LinkPort) (n : Notice) : (p.told n).state = p.state := by
  unfold LinkPort.told; split <;> simp

theorem State.notifyEach_sameButPorts (ls : List Link) (n : Notice) (s : State) :
    s.SameButPorts (s.notifyEach ls n) := by
  induction ls generalizing s with
  | nil => exact .rfl' s
  | cons l ls ih => exact (s.notify_sameButPorts l n).trans (ih _)

/-- A notice placed for each link of a list without repeats reaches exactly those ports that are not DOWN, once each. -/
theorem State.port_notifyEach (ls : List Link) (hn : ls.Nodup) (n : Notice) (i : Link) (s : State) :
    (s.notifyEach ls n).port i = if i ∈ ls then (s.port i).told n else s.port i := by
  induction ls generalizing s with
  | nil => simp [State.notifyEach]
  | cons l ls ih =>
    obtain ⟨hl, hn⟩ := List.nodup_cons.mp hn
    show ((s.notify l n).notifyEach ls n).port i = _
    rw [ih hn, State.port_notify]
    by_cases hi : i = l
    · subst hi; simp [hl]
    · simp [hi]

theorem allLinks_nodup : allLinks.Nodup := by decide

theorem mem_allLinks (l : Link) : l ∈ allLinks := by revert l; decide

theorem State.notifyDevice_sameButPorts (s : State) (b : NoticeBody) : s.SameButPorts (s.notifyDevice b) :=
  State.notifyEach_sameButPorts _ _ s

/-- A device notice reaches every link that is not DOWN. -/
theorem State.port_notifyDevice (s : State) (b : NoticeBody) (i : Link) :
    (s.notifyDevice b).port i = (s.port i).told { chan := 63, body := b } := by
  rw [State.notifyDevice, State.port_notifyEach _ allLinks_nodup]
  simp [mem_allLinks]

theorem State.raise_sameButPorts (s : State) (c : Chan) (k : MaskKind) (b : NoticeBody) :
    s.SameButPorts (s.raise c k b) := by
  unfold State.raise
  split
  · exact State.notifyEach_sameButPorts _ _ s
  · exact .rfl' s

/-- A channel notice reaches the holder and the copy destination if its kind is in the mask, and nobody else (R145). -/
theorem State.port_raise (s : State) (c : Chan) (k : MaskKind) (b : NoticeBody) (i : Link)
    (hn : (s.chan c).recipients.Nodup) :
    (s.raise c k b).port i =
      if (s.chan c).enabled k = true ∧ i ∈ (s.chan c).recipients then
        (s.port i).told { chan := fieldOfChan c, body := b }
      else s.port i := by
  unfold State.raise
  by_cases he : (s.chan c).enabled k = true
  · simp [he, State.port_notifyEach _ hn]
  · simp [he]

/-! ### Answers -/

theorem State.answer_sameButPorts (s : State) (l : Link) (k : Fin 4) (code : Code) (body : List Word) :
    s.SameButPorts (s.answer l k code body) := s.sameButPorts_updPort l _

theorem State.answerOperation_sameButPorts (s : State) (l : Link) (kind : CmdKind) (ch : ChanField) (code : Code)
    (body : List Word) : s.SameButPorts (s.answerOperation l kind ch code body) := by
  unfold State.answerOperation
  split
  · exact s.answer_sameButPorts l _ _ _
  · exact .rfl' s

/-- The completion of an operation answers it on its own link alone, where that link's intake still holds it. -/
theorem State.port_answerOperation (s : State) (l i : Link) (kind : CmdKind) (ch : ChanField) (code : Code)
    (body : List Word) :
    (s.answerOperation l kind ch code body).port i =
      if i = l then (s.port i).completes kind ch code body else s.port i := by
  unfold State.answerOperation LinkPort.completes
  by_cases hi : i = l
  · subst hi
    split <;> simp [State.answer, *]
  · split <;> simp [State.answer, hi, State.port_updPort_ne]

/-! ### The arrival of a command -/

/-- A free intake place is one that no entry takes. -/
theorem LinkPort.place_free {p : LinkPort} {k : Fin 4} (h : p.freePlace = some k) : ∀ e ∈ p.intake, e.place ≠ k := by
  intro e he
  have := List.find?_some h
  have := List.all_eq_true.mp this e he
  simpa using this

/-- Marking a free place changes no earlier entry. -/
theorem LinkPort.map_mark_free {p : LinkPort} {k : Fin 4} (h : p.freePlace = some k) (st : EntryState) :
    p.intake.map (fun e => if e.place = k then { e with state := st } else e) = p.intake := by
  conv_rhs => rw [← List.map_id p.intake]
  apply List.map_congr_left
  intro e he
  simp [LinkPort.place_free h e he]

/-- A command that has entered a free place and is answered leaves the port as `replied` says. -/
theorem LinkPort.answer_entered {p : LinkPort} {k : Fin 4} (h : p.freePlace = some k) (m : CmdMsg) (code : Code)
    (body : List Word) : (p.entered k m .waiting).answer k code body = p.replied k m code body := by
  have hf : (p.entered k m .waiting).entryAt k = some { place := k, msg := m, state := .waiting } := by
    have : p.intake.find? (fun e => e.place == k) = none := by
      rw [List.find?_eq_none]
      intro e he
      simp [LinkPort.place_free h e he]
    simp [LinkPort.entryAt, LinkPort.entered, List.find?_append, this]
  unfold LinkPort.answer
  rw [hf]
  simp [LinkPort.markEntry, LinkPort.entered, LinkPort.replied, Entry.response,
    LinkPort.map_mark_free h]

/-- A command that has entered a free place and starts an operation is IN_PROGRESS there. -/
theorem LinkPort.mark_entered {p : LinkPort} {k : Fin 4} (h : p.freePlace = some k) (m : CmdMsg) (st st' : EntryState) :
    (p.entered k m st).markEntry k st' = p.entered k m st' := by
  simp [LinkPort.markEntry, LinkPort.entered, LinkPort.map_mark_free h]

/-- The state in which a command has arrived and entered a place, just before its owner takes it. -/
def State.received (s : State) (l : Link) (k : Fin 4) (m : CmdMsg) : State := s.updPort l (·.entered k m .waiting)

@[simp] theorem State.chan_received (s : State) (l : Link) (k : Fin 4) (m : CmdMsg) (c : Chan) :
    (s.received l k m).chan c = s.chan c := rfl

theorem State.received_sameButPorts (s : State) (l : Link) (k : Fin 4) (m : CmdMsg) : s.SameButPorts (s.received l k m) :=
  rfl

/-- On a link that is not UP, or while the pin is asserted, nothing arrives. -/
theorem State.arrive_deaf {s : State} {l : Link} (h : s.listens l = false) (m : CmdMsg) (take : Taking) :
    s.arrive l m take = s := by
  simp [State.arrive, h]

/-- Everything the arrival of a command can do on a link that listens and has a free place: RESETTING while a reset
clear runs, else what its owner does, and the settling of its entry. -/
theorem State.arrive_eq {s : State} {l : Link} {k : Fin 4} (hl : s.listens l = true)
    (hk : (s.port l).freePlace = some k) (m : CmdMsg) (take : Taking) :
    s.arrive l m take =
      if s.mark = true ∧ m.kind ≠ .deviceStatus then s.replies l k m .resetting []
      else (take l k m (s.received l k m)).1.settle l k m (take l k m (s.received l k m)).2 := by
  have hk' : ((s.updPort l LinkPort.heard).port l).freePlace = some k := by
    rw [State.port_updPort]; exact hk
  have hr : (s.updPort l LinkPort.heard).updPort l
      (fun p => { p with intake := p.intake ++ [{ place := k, msg := m, state := .waiting }] }) = s.received l k m := by
    rw [State.updPort_updPort]; rfl
  unfold State.arrive
  simp only [hl, if_true, hk', hr]
  by_cases hm : s.mark = true ∧ m.kind ≠ .deviceStatus
  · have h1 : ((s.received l k m).mark && m.kind != .deviceStatus) = true := by
      simp [hm.2]; exact hm.1
    rw [if_pos h1, if_pos hm]
    simp [State.answer, State.received, State.replies]
    simp [State.updPort, LinkPort.answer_entered hk]
  · have h1 : ((s.received l k m).mark && m.kind != .deviceStatus) = false := by
      have : (s.received l k m).mark = s.mark := rfl
      rw [this]
      by_cases hs : s.mark = true
      · simp only [hs, true_and, not_not] at hm
        simp [hm]
      · simp [hs]
    rw [if_neg hm]
    simp [h1]

theorem State.Serves.listens {s : State} {l : Link} {k : Fin 4} (h : s.Serves l k) : s.listens l = true := by
  simp [State.listens, h.1, h.2.1]

/-- A served command is taken by its owner. -/
theorem State.arrive_served {s : State} {l : Link} {k : Fin 4} (h : s.Serves l k) (m : CmdMsg) (take : Taking) :
    s.arrive l m take = (take l k m (s.received l k m)).1.settle l k m (take l k m (s.received l k m)).2 := by
  rw [State.arrive_eq h.listens h.2.2.2, if_neg]
  simp [State.mark, h.2.2.1]

/-- A served command whose owner answers it without touching the ports is replied to. -/
theorem State.arrive_done {s : State} {l : Link} {k : Fin 4} (h : s.Serves l k) {m : CmdMsg} {take : Taking}
    {f : State → State} {code : Code} {body : List Word} (ht : take l k m (s.received l k m) = (f (s.received l k m), .done code body))
    (hf : f (s.received l k m) = (f s).updPort l (·.entered k m .waiting)) (hp : (f s).port l = s.port l) :
    s.arrive l m take = (f s).replies l k m code body := by
  rw [State.arrive_served h, ht]
  show State.answer _ l k code body = _
  rw [hf, State.answer, State.updPort_updPort, State.replies]
  simp only [State.updPort, hp, LinkPort.answer_entered h.2.2.2]

/-! ### Channel fields and rights -/

@[simp] theorem chanOf_fieldOfChan (c : Chan) : chanOf (fieldOfChan c) = some c := by revert c; decide

@[simp] theorem CmdMsg.on_kind (kind : CmdKind) (c : Chan) (tag : Tag) (ws : List Word) :
    (CmdMsg.on kind c tag ws).kind = kind := rfl

@[simp] theorem CmdMsg.on_chan (kind : CmdKind) (c : Chan) (tag : Tag) (ws : List Word) :
    (CmdMsg.on kind c tag ws).chan = fieldOfChan c := rfl

@[simp] theorem CmdMsg.on_payload (kind : CmdKind) (c : Chan) (tag : Tag) (ws : List Word) :
    (CmdMsg.on kind c tag ws).payload = ws := rfl

/-- A command that names a channel is taken on that channel (R2). -/
@[simp] theorem withChan_on (kind : CmdKind) (c : Chan) (tag : Tag) (ws : List Word) (s : State)
    (f : Chan → State × Reply) : withChan (.on kind c tag ws) s f = f c := by
  simp [withChan]

theorem Channel.HeldBy.holderRefusal {ch : Channel} {l : Link} (h : ch.HeldBy l) : ch.holderRefusal l = none := by
  obtain ⟨h | h, hl⟩ := h <;> simp [Channel.holderRefusal, h, hl]

/-- A holder command from the holder is taken (R111). -/
theorem asHolder_held {s : State} {c : Chan} {l : Link} (h : (s.chan c).HeldBy l) (kind : CmdKind) (tag : Tag)
    (ws : List Word) (f : Chan → State × Reply) : asHolder l (.on kind c tag ws) s f = f c := by
  simp [asHolder, h.holderRefusal]

/-- A holder command from any other link is refused: BUSY while OPENING, else NOT_HOLDER (R4, R5, R111). -/
theorem Channel.holderRefusal_other {ch : Channel} {l : Link} (h : ¬ ch.HeldBy l) :
    ch.holderRefusal l = some (if ch.state = .opening then .busy else .notHolder) := by
  unfold Channel.holderRefusal
  cases hs : ch.state <;> simp_all [Channel.HeldBy]

theorem asHolder_other {s : State} {c : Chan} {l : Link} (h : ¬ (s.chan c).HeldBy l) (kind : CmdKind) (tag : Tag)
    (ws : List Word) (f : Chan → State × Reply) : asHolder l (.on kind c tag ws) s f =
      (s, .done (if (s.chan c).state = .opening then .busy else .notHolder) []) := by
  simp [asHolder, Channel.holderRefusal_other h, refuse]

end Sys2Proof.Machine
end

