-- ==== Sys2Proof/Laws/Commands.lean ====
section
/-! SUPPORT. One law for all the commands: each is the arrival of its message, taken by its owner. And what the
operations that their owners share can do: pages, charges, retunes, offers, watches, pending sets, results. -/

namespace Sys2Proof.Machine

/-- What a command does when it is taken. -/
def taking : Instr → Taking
  | .openChannel .. => takeOpen
  | .closeChannel .. => takeClose
  | .setNear .. => takeSetNear
  | .setFar .. => takeSetFar
  | .setAdapt .. => takeSetAdapt
  | .clearTaps .. => takeClearTaps
  | .setPlayout .. => takeSetPlayout
  | .setLine .. => takeSetLine
  | .setNotices .. => takeSetNotices
  | .setShadow .. => takeSetShadow
  | .handover .. => takeHandover
  | .accept .. => takeAccept
  | .decline .. => takeDecline
  | .adopt .. => takeAdopt
  | .eqOpen .. => takeEqOpen
  | .eqClose .. => takeEqClose
  | .eqSet .. => takeEqSet
  | .peek .. => takePeek
  | .poke .. => takePoke
  | .status .. => takeStatus
  | .counters .. => takeCounters
  | .deviceStatus .. => takeDeviceStatus
  | .watch .. => takeWatch
  | .linkConfig .. => takeLinkConfig
  | .resetDevice .. => takeResetDevice
  | .nop .. | .contextClearComplete _ | .txBlock .. | .eqIn .. | .jobStart | .eqInputPush | .jobComplete
  | .malformedHeader _ | .resync _ | .silenceTimerExpiry _ | .handoverExpiry _ | .frameSync .. | .syncWindowClose
  | .frameArrival .. | .transmitStart _ | .messageCompletion _ | .deviceClearComplete | .powerOn | .resetPinAssert
  | .resetPinRelease | .powerOnClearComplete | .handoverTimerTick _ | .resyncPairSent _ => takeNop

/-- A command's meaning is the arrival of its message, taken by its owner. -/
theorem exec_command {i : Instr} {l : Link} {m : CmdMsg} (h : i.command = some (l, m)) (s : State) :
    exec i s = .next (s.arrive l m (taking i)) := by
  cases i <;> simp [Instr.command] at h <;> obtain ⟨rfl, rfl⟩ := h <;> rfl

/-! ### Free orders -/

theorem insertByKey_perm {α : Type} (key : α → Nat) (x : α) (xs : List α) : (insertByKey key x xs).Perm (x :: xs) := by
  induction xs with
  | nil => exact .refl _
  | cons y ys ih =>
    unfold insertByKey
    split
    · exact .refl _
    · exact (ih.cons y).trans (.swap _ _ _)

/-- A list put in some order keeps its members, whatever the keys. -/
theorem sortByKey_perm {α : Type} (key : α → Nat) (xs : List α) : (sortByKey key xs).Perm xs := by
  induction xs with
  | nil => exact .refl _
  | cons x xs ih => exact (insertByKey_perm key x _).trans (ih.cons x)

/-! ### Pages and charges -/

@[simp] theorem State.chan_grantPages (s : State) (c : Chan) (k : Nat) :
    (s.grantPages c k).chan c = { s.chan c with pages := (s.chan c).pages ++ s.freeList.take k } := by
  simp [State.grantPages, State.updChan, State.chan, State.setChan]

@[simp] theorem State.freeList_grantPages (s : State) (c : Chan) (k : Nat) :
    (s.grantPages c k).freeList = s.freeList.drop k := rfl

@[simp] theorem State.chan_releasePages (s : State) (c : Chan) (k : Nat) :
    (s.releasePages c k).chan c =
      { s.chan c with pages := (s.chan c).pages.take ((s.chan c).pages.length - k) } := by
  simp [State.releasePages, State.updChan, State.chan, State.setChan]

@[simp] theorem State.freeList_releasePages (s : State) (c : Chan) (k : Nat) :
    (s.releasePages c k).freeList = s.freeList ++ (s.chan c).pages.drop ((s.chan c).pages.length - k) := rfl

@[simp] theorem State.chan_recharge (s : State) (c : Chan) (n : Nat) :
    (s.recharge c n).chan c = { s.chan c with charge := n } := by
  simp [State.recharge, State.updChan, State.chan, State.setChan]

@[simp] theorem State.echoUsed_recharge (s : State) (c : Chan) (n : Nat) :
    (s.recharge c n).echoUsed = s.echoUsed - (s.chan c).charge + n := rfl

/-- Granting pages keeps every page in one place, once. -/
theorem grant_perm (free pages : List Page) (k : Nat) : (free.drop k ++ (pages ++ free.take k)).Perm (free ++ pages) := by
  refine List.perm_iff_count.mpr fun x => ?_
  have : (free.take k).count x + (free.drop k).count x = free.count x := by
    rw [← List.count_append, List.take_append_drop]
  simp only [List.count_append]
  omega

/-! ### Answers and notices of an operation's end -/

theorem State.answerRetune_sameButPorts (s : State) (c : Chan) (code : Code) (body : List Word) :
    s.SameButPorts (s.answerRetune c code body) := by
  unfold State.answerRetune
  split
  · split
    · exact State.answerOperation_sameButPorts _ _ _ _ _ _
    · exact .rfl' s
  · exact .rfl' s

/-- The requester of a pending retune is answered, if it still is a link, and no other port changes. -/
theorem State.port_answerRetune (s : State) (c : Chan) (code : Code) (body : List Word) (i : Link) :
    (s.answerRetune c code body).port i =
      if ((s.chan c).retune.bind Retune.requester) = some i then
        (s.port i).completes .setFar (fieldOfChan c) code body
      else s.port i := by
  unfold State.answerRetune
  cases hr : (s.chan c).retune with
  | none => simp
  | some r =>
    cases hq : r.requester with
    | none => simp [hq]
    | some l => simp only [Option.bind_some, hq, State.port_answerOperation, Option.some.injEq, eq_comm]

theorem State.withdrawOffer_sameButPorts (s : State) (c : Chan) (why : Reason) : s.SameButPorts (s.withdrawOffer c why) := by
  unfold State.withdrawOffer
  split
  · exact State.notify_sameButPorts _ _ _
  · exact .rfl' s

/-- The target of a standing offer is told, and no other port changes. -/
theorem State.port_withdrawOffer (s : State) (c : Chan) (why : Reason) (i : Link) :
    (s.withdrawOffer c why).port i =
      if ((s.chan c).offer.map Offer.target) = some i then
        (s.port i).told { chan := fieldOfChan c, body := .offerWithdrawn why }
      else s.port i := by
  unfold State.withdrawOffer
  cases ho : (s.chan c).offer with
  | none => simp
  | some o => simp only [Option.map_some, State.port_notify, Option.some.injEq, eq_comm]

theorem State.endWatch_sameButPorts (s : State) (c : Chan) (l : Link) : s.SameButPorts (State.endWatch c s l) := by
  unfold State.endWatch
  split
  · split
    · exact (s.sameButPorts_updPort l _).trans (State.notify_sameButPorts _ _ _)
    · exact .rfl' s
  · exact .rfl' s

/-- A link's watch on the channel ends with a WATCH_ENDED; every other port, and a port without one, is as before. -/
theorem State.port_endWatch (s : State) (c : Chan) (l i : Link) :
    (State.endWatch c s l).port i =
      if i = l ∧ ((s.port i).watch.map Watch.chan) = some c then
        { s.port i with watch := none, watchData := none }.told { chan := fieldOfChan c, body := .watchEnded }
      else s.port i := by
  unfold State.endWatch
  by_cases hi : i = l
  · subst hi
    cases hw : (s.port i).watch with
    | none => simp
    | some w =>
      by_cases hc : w.chan = c
      · simp [hc, State.port_notify]
      · simp [hc]
  · cases hw : (s.port l).watch with
    | none => simp [hi]
    | some w =>
      by_cases hc : w.chan = c <;> simp [hc, hi, State.port_notify, State.port_updPort_ne]

/-! ### Pending sets -/

/-- What an edit of an rx queue leaves: the entries still due to a kept link, with those links alone. -/
theorem mem_editQueue {keep : Link → Bool} {q : List RxEntry} {e : RxEntry} :
    e ∈ editQueue keep q ↔ e.due ≠ [] ∧ ∃ x ∈ q, e = { x with due := x.due.filter keep } := by
  simp only [editQueue, List.mem_filter, List.mem_map, Bool.not_eq_true', List.isEmpty_eq_false_iff]
  constructor
  · rintro ⟨⟨x, hx, rfl⟩, hd⟩
    exact ⟨hd, x, hx, rfl⟩
  · rintro ⟨hd, x, hx, rfl⟩
    exact ⟨⟨x, hx, rfl⟩, hd⟩

theorem length_editQueue_le (keep : Link → Bool) (q : List RxEntry) : (editQueue keep q).length ≤ q.length := by
  simpa [editQueue] using List.length_filter_le (fun e : RxEntry => !e.due.isEmpty)
    (q.map fun e => { e with due := e.due.filter keep })

/-! ### Places -/

/-- A free job slot is one that no job takes. -/
theorem LinkPort.jobPlace_free {p : LinkPort} {k : Fin 4} (h : p.freeJobPlace = some k) : ∀ j ∈ p.jobs, j.place ≠ k := by
  intro j hj
  have := List.find?_some h
  simpa using List.all_eq_true.mp this j hj

/-- With no free intake place all four are taken. -/
theorem LinkPort.intake_full {p : LinkPort} (h : p.freePlace = none) (k : Fin 4) : ∃ e ∈ p.intake, e.place = k := by
  have := List.find?_eq_none.mp h k (mem_allLinks k)
  simpa using this

/-! ### The highway -/

/-- Driving a slot changes that slot alone. -/
theorem State.outbound_drive (s : State) (k : Slot) (x : Sample) (i : Slot) :
    (s.drive (some k) x).outbound[i] = if i = k then some x else s.outbound[i] := by
  simp [State.drive, Vector.getElem_set, Fin.val_inj, eq_comm]

@[simp] theorem State.drive_none (s : State) (x : Sample) : s.drive none x = s := rfl

end Sys2Proof.Machine
end

