-- ==== Sys2Proof/Laws/Memory.lean ====
section
/-! SUPPORT. The History Pool's storage: what a read gives after each operation, and that every operation keeps the
canonical form. -/

namespace Sys2Proof.Machine

/-! ### The canonical form -/

/-- The canonical form, said at once: addresses strictly rising, no listed sample 0. -/
theorem Memory.wf_iff (m : Memory) :
    m.wf = true ↔ m.Pairwise (fun x y => x.1 < y.1) ∧ ∀ cell ∈ m, cell.2 ≠ 0 := by
  induction m with
  | nil => simp [Memory.wf]
  | cons x xs ih =>
    obtain ⟨a, v⟩ := x
    cases xs with
    | nil => simp [Memory.wf]
    | cons y ys =>
      obtain ⟨b, w⟩ := y
      simp only [Memory.wf, Bool.and_eq_true, decide_eq_true_eq, ih]
      constructor
      · rintro ⟨⟨hab, hv⟩, hp, hz⟩
        refine ⟨List.pairwise_cons.mpr ⟨fun c hc => ?_, hp⟩, ?_⟩
        · rcases List.mem_cons.mp hc with rfl | hc
          · exact hab
          · exact lt_trans hab ((List.pairwise_cons.mp hp).1 c hc)
        · intro c hc
          rcases List.mem_cons.mp hc with rfl | hc
          · exact hv
          · exact hz c hc
      · rintro ⟨hp, hz⟩
        obtain ⟨h1, h2⟩ := List.pairwise_cons.mp hp
        exact ⟨⟨h1 (b, w) (by simp), hz (a, v) (by simp)⟩, h2, fun c hc => hz c (List.mem_cons_of_mem _ hc)⟩

theorem Memory.wf_nil : Memory.wf [] = true := rfl

/-- The tail of a canonical storage is canonical, and its addresses lie above the first. -/
theorem Memory.wf_cons {a : Nat} {v : Sample} {m : Memory} (h : Memory.wf ((a, v) :: m) = true) :
    m.wf = true ∧ v ≠ 0 ∧ ∀ cell ∈ m, a < cell.1 := by
  rw [Memory.wf_iff] at h
  obtain ⟨h1, h2⟩ := List.pairwise_cons.mp h.1
  exact ⟨(Memory.wf_iff m).mpr ⟨h2, fun c hc => h.2 c (List.mem_cons_of_mem _ hc)⟩, h.2 (a, v) (by simp), h1⟩

theorem Memory.wf_of_cons {a : Nat} {v : Sample} {m : Memory} (hm : m.wf = true) (hv : v ≠ 0)
    (ha : ∀ cell ∈ m, a < cell.1) : Memory.wf ((a, v) :: m) = true := by
  rw [Memory.wf_iff] at hm ⊢
  refine ⟨List.pairwise_cons.mpr ⟨ha, hm.1⟩, fun c hc => ?_⟩
  rcases List.mem_cons.mp hc with rfl | hc
  · exact hv
  · exact hm.2 c hc

/-- Every part of a canonical storage is canonical. -/
theorem Memory.wf_filter {m : Memory} (h : m.wf = true) (p : Nat × Sample → Bool) : Memory.wf (m.filter p) = true := by
  rw [Memory.wf_iff] at h ⊢
  exact ⟨h.1.filter p, fun c hc => h.2 c (List.mem_filter.mp hc).1⟩

/-! ### Reads -/

/-- A canonical storage reads an address from its cell, and 0 where it lists none. -/
theorem Memory.read_eq {m : Memory} (h : m.wf = true) (a : Nat) :
    (∀ v, (a, v) ∈ m → m.read a = v) ∧ ((∀ v, (a, v) ∉ m) → m.read a = 0) := by
  induction m with
  | nil => simp [Memory.read]
  | cons x xs ih =>
    obtain ⟨b, w⟩ := x
    obtain ⟨hx, -, hb⟩ := Memory.wf_cons h
    constructor
    · intro v hv
      rcases List.mem_cons.mp hv with he | hv
      · obtain ⟨rfl, rfl⟩ := Prod.mk.inj he
        simp [Memory.read]
      · have := hb _ hv
        simp [Memory.read, show a ≠ b by omega, show ¬ a < b by omega, (ih hx).1 v hv]
    · intro hn
      have hab : a ≠ b := fun he => hn w (by simp [he])
      by_cases hlt : a < b
      · simp [Memory.read, hab, hlt]
      · simp only [Memory.read, hab, hlt, if_false]
        exact (ih hx).2 fun v hv => hn v (List.mem_cons_of_mem _ hv)

/-- Which cells a write leaves. -/
theorem Memory.mem_write {m : Memory} (h : m.wf = true) (a : Nat) (v : Sample) (cell : Nat × Sample) :
    cell ∈ m.write a v ↔ (cell = (a, v) ∧ v ≠ 0) ∨ (cell ∈ m ∧ cell.1 ≠ a) := by
  induction m with
  | nil =>
    unfold Memory.write
    split <;> simp_all
  | cons x xs ih =>
    obtain ⟨b, w⟩ := x
    obtain ⟨hx, -, hb⟩ := Memory.wf_cons h
    have hall : ∀ c ∈ xs, b < c.1 := hb
    unfold Memory.write
    split
    · rename_i hlt
      have hne : ∀ c ∈ (b, w) :: xs, c.1 ≠ a := by
        intro c hc
        rcases List.mem_cons.mp hc with rfl | hc
        · simp; omega
        · have := hall c hc; omega
      split
      · rename_i hv
        constructor
        · intro hc; exact .inr ⟨hc, hne cell hc⟩
        · rintro (⟨-, hv'⟩ | ⟨hc, -⟩)
          · exact absurd hv hv'
          · exact hc
      · rename_i hv
        constructor
        · intro hc
          rcases List.mem_cons.mp hc with rfl | hc
          · exact .inl ⟨rfl, hv⟩
          · exact .inr ⟨hc, hne cell hc⟩
        · rintro (⟨rfl, -⟩ | ⟨hc, -⟩)
          · simp
          · exact List.mem_cons_of_mem _ hc
    · rename_i hlt
      split
      · rename_i he
        subst he
        have hne : ∀ c ∈ xs, c.1 ≠ a := fun c hc => by have := hall c hc; omega
        split
        · rename_i hv
          constructor
          · intro hc; exact .inr ⟨List.mem_cons_of_mem _ hc, hne cell hc⟩
          · rintro (⟨-, hv'⟩ | ⟨hc, hn⟩)
            · exact absurd hv hv'
            · rcases List.mem_cons.mp hc with rfl | hc
              · exact absurd rfl hn
              · exact hc
        · rename_i hv
          constructor
          · intro hc
            rcases List.mem_cons.mp hc with rfl | hc
            · exact .inl ⟨rfl, hv⟩
            · exact .inr ⟨List.mem_cons_of_mem _ hc, hne cell hc⟩
          · rintro (⟨rfl, -⟩ | ⟨hc, hn⟩)
            · simp
            · rcases List.mem_cons.mp hc with rfl | hc
              · exact absurd rfl hn
              · exact List.mem_cons_of_mem _ hc
      · rename_i he
        rw [List.mem_cons, ih hx]
        constructor
        · rintro (rfl | hc | ⟨hc, hn⟩)
          · exact .inr ⟨by simp, fun e => he e.symm⟩
          · exact .inl hc
          · exact .inr ⟨List.mem_cons_of_mem _ hc, hn⟩
        · rintro (hc | ⟨hc, hn⟩)
          · exact .inr (.inl hc)
          · rcases List.mem_cons.mp hc with rfl | hc
            · exact .inl rfl
            · exact .inr (.inr ⟨hc, hn⟩)

/-- A write keeps the canonical form. -/
theorem Memory.write_wf {m : Memory} (h : m.wf = true) (a : Nat) (v : Sample) : (m.write a v).wf = true := by
  induction m with
  | nil =>
    unfold Memory.write
    split <;> simp_all [Memory.wf]
  | cons x xs ih =>
    obtain ⟨b, w⟩ := x
    obtain ⟨hx, hw, hb⟩ := Memory.wf_cons h
    unfold Memory.write
    split
    · rename_i hlt
      split
      · exact h
      · rename_i hv
        refine Memory.wf_of_cons h hv fun c hc => ?_
        rcases List.mem_cons.mp hc with rfl | hc
        · exact hlt
        · have := hb c hc; omega
    · split
      · split
        · exact hx
        · rename_i he hv
          subst he
          exact Memory.wf_of_cons hx hv hb
      · rename_i h1 h2
        refine Memory.wf_of_cons (ih hx) hw fun c hc => ?_
        rcases (Memory.mem_write hx a v c).mp hc with ⟨rfl, -⟩ | ⟨hc, -⟩
        · simp; omega
        · exact hb c hc

/-- A read after a write: the value written at its address, and every other address as before. -/
theorem Memory.read_write {m : Memory} (h : m.wf = true) (a b : Nat) (v : Sample) :
    (m.write a v).read b = if b = a then v else m.read b := by
  have hw := Memory.read_eq (Memory.write_wf h a v) b
  have hm := Memory.read_eq h b
  by_cases hb : b = a
  · subst hb
    rw [if_pos rfl]
    by_cases hv : v = 0
    · rw [hw.2 fun u hu => ?_, hv]
      rcases (Memory.mem_write h b v (b, u)).mp hu with ⟨-, hv'⟩ | ⟨-, hn⟩
      · exact hv' hv
      · exact hn rfl
    · exact hw.1 v ((Memory.mem_write h b v (b, v)).mpr (.inl ⟨rfl, hv⟩))
  · rw [if_neg hb]
    by_cases hc : ∃ u, (b, u) ∈ m
    · obtain ⟨u, hu⟩ := hc
      rw [hm.1 u hu]
      exact hw.1 u ((Memory.mem_write h a v (b, u)).mpr (.inr ⟨hu, hb⟩))
    · rw [hm.2 fun u hu => hc ⟨u, hu⟩]
      refine hw.2 fun u hu => ?_
      rcases (Memory.mem_write h a v (b, u)).mp hu with ⟨he, -⟩ | ⟨hu, -⟩
      · exact hb (Prod.mk.inj he).1
      · exact hc ⟨u, hu⟩

/-! ### Pages -/

theorem Memory.zeroPage_wf {m : Memory} (h : m.wf = true) (p : Page) : (m.zeroPage p).wf = true :=
  Memory.wf_filter h _

/-- A zeroed page reads 0, and every other page as before. -/
theorem Memory.read_zeroPage {m : Memory} (h : m.wf = true) (p : Page) (a : Nat) :
    (m.zeroPage p).read a = if a / 256 = p.val then 0 else m.read a := by
  have hz := Memory.read_eq (Memory.zeroPage_wf h p) a
  have hm := Memory.read_eq h a
  by_cases ha : a / 256 = p.val
  · rw [if_pos ha]
    refine hz.2 fun u hu => ?_
    have := (List.mem_filter.mp hu).2
    simp [Config.pageSize, ha] at this
  · rw [if_neg ha]
    by_cases hc : ∃ u, (a, u) ∈ m
    · obtain ⟨u, hu⟩ := hc
      rw [hm.1 u hu]
      exact hz.1 u (List.mem_filter.mpr ⟨hu, decide_eq_true ha⟩)
    · rw [hm.2 fun u hu => hc ⟨u, hu⟩]
      exact hz.2 fun u hu => hc ⟨u, (List.mem_filter.mp hu).1⟩

theorem Memory.zeroPages_wf {m : Memory} (h : m.wf = true) (ps : List Page) : (m.zeroPages ps).wf = true := by
  induction ps generalizing m with
  | nil => exact h
  | cons p ps ih => exact ih (Memory.zeroPage_wf h p)

/-- Zeroed pages read 0, and every other page as before. -/
theorem Memory.read_zeroPages {m : Memory} (h : m.wf = true) (ps : List Page) (a : Nat) :
    (m.zeroPages ps).read a = if a / 256 ∈ ps.map Fin.val then 0 else m.read a := by
  induction ps generalizing m with
  | nil => simp [Memory.zeroPages]
  | cons p ps ih =>
    show ((m.zeroPage p).zeroPages ps).read a = _
    rw [ih (Memory.zeroPage_wf h p), Memory.read_zeroPage h]
    by_cases h1 : a / 256 = p.val
    · simp [h1]
    · by_cases h2 : a / 256 ∈ ps.map Fin.val
      · simp [h2]
      · simp [h1, h2]

/-- Zeroing pages only removes cells. -/
theorem Memory.mem_zeroPages {m : Memory} {ps : List Page} {cell : Nat × Sample} (h : cell ∈ m.zeroPages ps) :
    cell ∈ m := by
  induction ps generalizing m with
  | nil => exact h
  | cons p ps ih => exact (List.mem_filter.mp (ih (m := m.zeroPage p) h)).1

/-! ### Rings -/

/-- A ring position lies on a page of its page list. -/
theorem ringAddr_page {ps : List Page} {p a : Nat} (h : ringAddr ps p = some a) :
    ∃ pg ∈ ps, a / 256 = pg.val ∧ a < 32768 := by
  obtain ⟨pg, hp, rfl⟩ := Option.map_eq_some_iff.mp h
  refine ⟨pg, List.mem_of_getElem? hp, ?_, ?_⟩ <;> have := pg.isLt <;> simp only [Config.pageSize] <;> omega

theorem ringWrite_wf {m : Memory} (h : m.wf = true) (ps : List Page) (p : Nat) (v : Sample) :
    (ringWrite m ps p v).wf = true := by
  unfold ringWrite
  split
  · exact Memory.write_wf h _ v
  · exact h

theorem ringWriteFrom_wf {m : Memory} (h : m.wf = true) (ps : List Page) (p : Nat) (vs : List Sample) :
    (ringWriteFrom m ps p vs).wf = true := by
  induction vs generalizing m p with
  | nil => exact h
  | cons v vs ih => exact ih (ringWrite_wf h ps p v) (p + 1)

/-- A write to a ring leaves every page outside its page list as it was. -/
theorem read_ringWrite_other {m : Memory} (h : m.wf = true) (ps : List Page) (p : Nat) (v : Sample) (a : Nat)
    (ha : a / 256 ∉ ps.map Fin.val) : (ringWrite m ps p v).read a = m.read a := by
  unfold ringWrite
  split
  · rename_i b hb
    obtain ⟨pg, hp, he, -⟩ := ringAddr_page hb
    rw [Memory.read_write h, if_neg]
    rintro rfl
    exact ha (List.mem_map.mpr ⟨pg, hp, he.symm⟩)
  · rfl

theorem read_ringWriteFrom_other {m : Memory} (h : m.wf = true) (ps : List Page) (p : Nat) (vs : List Sample) (a : Nat)
    (ha : a / 256 ∉ ps.map Fin.val) : (ringWriteFrom m ps p vs).read a = m.read a := by
  induction vs generalizing m p with
  | nil => rfl
  | cons v vs ih =>
    show (ringWriteFrom (ringWrite m ps p v) ps (p + 1) vs).read a = _
    rw [ih (ringWrite_wf h ps p v), read_ringWrite_other h ps p v a ha]

/-- Every cell after a write to a ring was there before, or lies in the pool. -/
theorem mem_ringWrite {m : Memory} (h : m.wf = true) {ps : List Page} {p : Nat} {v : Sample} {cell : Nat × Sample}
    (hc : cell ∈ ringWrite m ps p v) : cell ∈ m ∨ cell.1 < 32768 := by
  unfold ringWrite at hc
  split at hc
  · rename_i b hb
    obtain ⟨-, -, -, hlt⟩ := ringAddr_page hb
    rcases (Memory.mem_write h b v cell).mp hc with ⟨rfl, -⟩ | ⟨hm, -⟩
    · exact .inr hlt
    · exact .inl hm
  · exact .inl hc

theorem mem_ringWriteFrom {m : Memory} (h : m.wf = true) {ps : List Page} {p : Nat} {vs : List Sample}
    {cell : Nat × Sample} (hc : cell ∈ ringWriteFrom m ps p vs) : cell ∈ m ∨ cell.1 < 32768 := by
  induction vs generalizing m p with
  | nil => exact .inl hc
  | cons v vs ih =>
    rcases ih (ringWrite_wf h ps p v) hc with hm | hlt
    · exact mem_ringWrite h hm
    · exact .inr hlt

/-- The storage at reset is canonical. -/
theorem reset_pool_wf : State.reset.pool.wf = true := rfl

end Sys2Proof.Machine
end

