-- ==== Sys2Proof/Laws/PerInstr.lean ====
section
/-! SUPPORT. One law for each command: the words of a well-formed message begin with a header that the part takes as
well formed and whose length field counts the payload; an event has no words (Tables 46 and 47, R130). -/

namespace Sys2Proof.Laws

open Sys2Proof.Machine

/-! ### Header fields -/

theorem fieldAt_or (v w : Word) (lo len : Nat) : fieldAt (v ||| w) lo len = fieldAt v lo len ||| fieldAt w lo len := by
  simp only [fieldAt, BitVec.toNat_or, ← Nat.shiftRight_eq_div_pow, Nat.shiftRight_or_distrib, Nat.or_mod_two_pow]

theorem place_toNat (v lo len : Nat) (h : lo + len ≤ 32) : (place v lo len).toNat = v % 2 ^ len * 2 ^ lo := by
  have h1 : v % 2 ^ len < 2 ^ len := Nat.mod_lt _ (Nat.two_pow_pos len)
  have h2 : v % 2 ^ len * 2 ^ lo < 2 ^ len * 2 ^ lo := Nat.mul_lt_mul_of_pos_right h1 (Nat.two_pow_pos lo)
  have h3 : 2 ^ len * 2 ^ lo ≤ 2 ^ 32 := by
    rw [← pow_add]
    exact Nat.pow_le_pow_right (by norm_num) (by omega)
  simp only [place, BitVec.toNat_ofNat]
  exact Nat.mod_eq_of_lt (lt_of_lt_of_le h2 h3)

/-- The kind field of a written header. -/
theorem headerKind_headerWord (kind len : Nat) (ch : ChanField) (tag : Tag) :
    headerKind (headerWord kind ch len tag) = kind % 64 := by
  have := ch.isLt
  simp only [headerKind, headerWord, fieldAt_or]
  simp only [fieldAt, place_toNat _ _ _ (show 0 + 6 ≤ 32 by norm_num), place_toNat _ _ _ (show 6 + 6 ≤ 32 by norm_num),
    place_toNat _ _ _ (show 12 + 6 ≤ 32 by norm_num), place_toNat _ _ _ (show 18 + 12 ≤ 32 by norm_num)]
  rw [show kind % 2 ^ 6 * 2 ^ 0 / 2 ^ 0 % 2 ^ 6 = kind % 64 by omega,
    show ch.toNat % 2 ^ 6 * 2 ^ 6 / 2 ^ 0 % 2 ^ 6 = 0 by omega, show len % 2 ^ 6 * 2 ^ 12 / 2 ^ 0 % 2 ^ 6 = 0 by omega,
    show tag.toNat % 2 ^ 12 * 2 ^ 18 / 2 ^ 0 % 2 ^ 6 = 0 by omega]
  simp

/-- The length field of a written header. -/
theorem headerLength_headerWord (kind len : Nat) (ch : ChanField) (tag : Tag) :
    headerLength (headerWord kind ch len tag) = len % 64 := by
  have := ch.isLt
  simp only [headerLength, headerWord, fieldAt_or]
  simp only [fieldAt, place_toNat _ _ _ (show 0 + 6 ≤ 32 by norm_num), place_toNat _ _ _ (show 6 + 6 ≤ 32 by norm_num),
    place_toNat _ _ _ (show 12 + 6 ≤ 32 by norm_num), place_toNat _ _ _ (show 18 + 12 ≤ 32 by norm_num)]
  rw [show kind % 2 ^ 6 * 2 ^ 0 / 2 ^ 12 % 2 ^ 6 = 0 by omega,
    show ch.toNat % 2 ^ 6 * 2 ^ 6 / 2 ^ 12 % 2 ^ 6 = 0 by omega, show len % 2 ^ 6 * 2 ^ 12 / 2 ^ 12 % 2 ^ 6 = len % 64 by omega,
    show tag.toNat % 2 ^ 12 * 2 ^ 18 / 2 ^ 12 % 2 ^ 6 = 0 by omega]
  simp

/-! ### One law for each constructor -/

/-- A well-formed message begins with a well-formed header whose length field counts the payload; an event has no
words. -/
def PumpMessage.Statement (i : Instr) : Prop :=
  WellFormed i = true →
    i.words = [] ∨ ∃ h ws, i.words = h :: ws ∧ headerOk h = true ∧ headerLength h = ws.length

/-- A message of a kind and payload whose length Table 47 permits. -/
theorem PumpMessage.of_permitted {i : Instr} (kind : Nat) (ch : ChanField) (tag : Tag) (ws : List Word)
    (hw : i.words = messageOf kind ch tag ws) (hk : kind < 64) (hl : ws.length < 64)
    (hp : lengthPermitted kind ws.length = true) : PumpMessage.Statement i := by
  refine fun _ => .inr ⟨_, ws, hw, ?_, ?_⟩
  · rw [headerOk, headerKind_headerWord, headerLength_headerWord, Nat.mod_eq_of_lt hk, Nat.mod_eq_of_lt hl]
    exact hp
  · rw [headerLength_headerWord, Nat.mod_eq_of_lt hl]

theorem PumpMessage.openChannel (l : Link) (ch : ChanField) (tag : Tag) (p : OpenPayload) :
    PumpMessage.Statement (.openChannel l ch tag p) := by
  cases p <;> exact PumpMessage.of_permitted 1 ch tag _ rfl (by decide) (by simp [OpenPayload.words]) rfl

theorem PumpMessage.contextClearComplete (c : Chan) : PumpMessage.Statement (.contextClearComplete c) := fun _ => .inl rfl

theorem PumpMessage.closeChannel (l : Link) (ch : ChanField) (tag : Tag) :
    PumpMessage.Statement (.closeChannel l ch tag) :=
  PumpMessage.of_permitted 2 ch tag _ rfl (by decide) (by simp) rfl

theorem PumpMessage.setNear (l : Link) (ch : ChanField) (tag : Tag) (w : Word) :
    PumpMessage.Statement (.setNear l ch tag w) :=
  PumpMessage.of_permitted 3 ch tag _ rfl (by decide) (by simp) rfl

theorem PumpMessage.setFar (l : Link) (ch : ChanField) (tag : Tag) (w : Word) :
    PumpMessage.Statement (.setFar l ch tag w) :=
  PumpMessage.of_permitted 4 ch tag _ rfl (by decide) (by simp) rfl

theorem PumpMessage.setAdapt (l : Link) (ch : ChanField) (tag : Tag) (w1 : Word) (w2 : Word) (w3 : Word) (w4 : Word) :
    PumpMessage.Statement (.setAdapt l ch tag w1 w2 w3 w4) :=
  PumpMessage.of_permitted 5 ch tag _ rfl (by decide) (by simp) rfl

theorem PumpMessage.clearTaps (l : Link) (ch : ChanField) (tag : Tag) (w : Word) :
    PumpMessage.Statement (.clearTaps l ch tag w) :=
  PumpMessage.of_permitted 6 ch tag _ rfl (by decide) (by simp) rfl

theorem PumpMessage.setPlayout (l : Link) (ch : ChanField) (tag : Tag) (w : Word) :
    PumpMessage.Statement (.setPlayout l ch tag w) :=
  PumpMessage.of_permitted 7 ch tag _ rfl (by decide) (by simp) rfl

theorem PumpMessage.setLine (l : Link) (ch : ChanField) (tag : Tag) (w : Word) :
    PumpMessage.Statement (.setLine l ch tag w) :=
  PumpMessage.of_permitted 8 ch tag _ rfl (by decide) (by simp) rfl

theorem PumpMessage.setNotices (l : Link) (ch : ChanField) (tag : Tag) (w : Word) :
    PumpMessage.Statement (.setNotices l ch tag w) :=
  PumpMessage.of_permitted 9 ch tag _ rfl (by decide) (by simp) rfl

theorem PumpMessage.setShadow (l : Link) (ch : ChanField) (tag : Tag) (w : Word) :
    PumpMessage.Statement (.setShadow l ch tag w) :=
  PumpMessage.of_permitted 10 ch tag _ rfl (by decide) (by simp) rfl

theorem PumpMessage.handover (l : Link) (ch : ChanField) (tag : Tag) (p : HandoverPayload) :
    PumpMessage.Statement (.handover l ch tag p) := by
  cases p <;> exact PumpMessage.of_permitted 11 ch tag _ rfl (by decide) (by simp [HandoverPayload.words]) rfl

theorem PumpMessage.accept (l : Link) (ch : ChanField) (tag : Tag) :
    PumpMessage.Statement (.accept l ch tag) :=
  PumpMessage.of_permitted 12 ch tag _ rfl (by decide) (by simp) rfl

theorem PumpMessage.decline (l : Link) (ch : ChanField) (tag : Tag) :
    PumpMessage.Statement (.decline l ch tag) :=
  PumpMessage.of_permitted 13 ch tag _ rfl (by decide) (by simp) rfl

theorem PumpMessage.adopt (l : Link) (ch : ChanField) (tag : Tag) :
    PumpMessage.Statement (.adopt l ch tag) :=
  PumpMessage.of_permitted 14 ch tag _ rfl (by decide) (by simp) rfl

theorem PumpMessage.eqOpen (l : Link) (ch : ChanField) (tag : Tag) (p : EqOpenPayload) :
    PumpMessage.Statement (.eqOpen l ch tag p) := by
  cases p <;> exact PumpMessage.of_permitted 15 ch tag _ rfl (by decide) (by simp [EqOpenPayload.words]) rfl

theorem PumpMessage.eqClose (l : Link) (ch : ChanField) (tag : Tag) :
    PumpMessage.Statement (.eqClose l ch tag) :=
  PumpMessage.of_permitted 16 ch tag _ rfl (by decide) (by simp) rfl

theorem PumpMessage.eqSet (l : Link) (ch : ChanField) (tag : Tag) (w : Word) :
    PumpMessage.Statement (.eqSet l ch tag w) :=
  PumpMessage.of_permitted 17 ch tag _ rfl (by decide) (by simp) rfl

theorem PumpMessage.peek (l : Link) (ch : ChanField) (tag : Tag) (w : Word) :
    PumpMessage.Statement (.peek l ch tag w) :=
  PumpMessage.of_permitted 18 ch tag _ rfl (by decide) (by simp) rfl

theorem PumpMessage.poke (l : Link) (ch : ChanField) (tag : Tag) (w : Word) (v : Word) :
    PumpMessage.Statement (.poke l ch tag w v) :=
  PumpMessage.of_permitted 19 ch tag _ rfl (by decide) (by simp) rfl

theorem PumpMessage.status (l : Link) (ch : ChanField) (tag : Tag) (w : Option Word) :
    PumpMessage.Statement (.status l ch tag w) := by
  cases w <;> exact PumpMessage.of_permitted 20 ch tag _ rfl (by decide) (by simp) rfl

theorem PumpMessage.counters (l : Link) (ch : ChanField) (tag : Tag) (w : Option Word) :
    PumpMessage.Statement (.counters l ch tag w) := by
  cases w <;> exact PumpMessage.of_permitted 21 ch tag _ rfl (by decide) (by simp) rfl

theorem PumpMessage.deviceStatus (l : Link) (ch : ChanField) (tag : Tag) :
    PumpMessage.Statement (.deviceStatus l ch tag) :=
  PumpMessage.of_permitted 22 ch tag _ rfl (by decide) (by simp) rfl

theorem PumpMessage.watch (l : Link) (ch : ChanField) (tag : Tag) (w : Word) :
    PumpMessage.Statement (.watch l ch tag w) :=
  PumpMessage.of_permitted 23 ch tag _ rfl (by decide) (by simp) rfl

theorem PumpMessage.nop (l : Link) (ch : ChanField) (tag : Tag) (ws : List Word) :
    PumpMessage.Statement (.nop l ch tag ws) := by
  intro h
  have hl : ws.length ≤ 63 := of_decide_eq_true h
  exact PumpMessage.of_permitted (i := .nop l ch tag ws) 24 ch tag ws rfl (by decide) (by omega) (decide_eq_true hl) h

theorem PumpMessage.linkConfig (l : Link) (ch : ChanField) (tag : Tag) (w : Word) :
    PumpMessage.Statement (.linkConfig l ch tag w) :=
  PumpMessage.of_permitted 25 ch tag _ rfl (by decide) (by simp) rfl

theorem PumpMessage.resetDevice (l : Link) (ch : ChanField) (tag : Tag) :
    PumpMessage.Statement (.resetDevice l ch tag) :=
  PumpMessage.of_permitted 26 ch tag _ rfl (by decide) (by simp) rfl

theorem PumpMessage.txBlock (l : Link) (ch : ChanField) (w : Word) (xs : Vector Word 8) :
    PumpMessage.Statement (.txBlock l ch w xs) := by
  have hl : (w :: xs.toList).length = 9 := by simp
  exact PumpMessage.of_permitted 32 ch 0 _ rfl (by decide) (by omega) (by rw [hl]; rfl)

theorem PumpMessage.eqIn (l : Link) (ch : ChanField) (tag : Tag) (ws : List Word) :
    PumpMessage.Statement (.eqIn l ch tag ws) := by
  intro h
  have hl : 2 ≤ ws.length ∧ ws.length ≤ 25 := of_decide_eq_true h
  exact PumpMessage.of_permitted (i := .eqIn l ch tag ws) 33 ch tag ws rfl (by decide) (by omega) (decide_eq_true hl) h

theorem PumpMessage.jobStart : PumpMessage.Statement .jobStart := fun _ => .inl rfl

theorem PumpMessage.eqInputPush : PumpMessage.Statement .eqInputPush := fun _ => .inl rfl

theorem PumpMessage.jobComplete : PumpMessage.Statement .jobComplete := fun _ => .inl rfl

theorem PumpMessage.malformedHeader (l : Link) : PumpMessage.Statement (.malformedHeader l) := fun _ => .inl rfl

theorem PumpMessage.resync (l : Link) : PumpMessage.Statement (.resync l) := fun _ => .inl rfl

theorem PumpMessage.silenceTimerExpiry (l : Link) : PumpMessage.Statement (.silenceTimerExpiry l) := fun _ => .inl rfl

theorem PumpMessage.handoverExpiry (c : Chan) : PumpMessage.Statement (.handoverExpiry c) := fun _ => .inl rfl

theorem PumpMessage.frameSync (t : Nat) (inbound : Vector Sample 64) : PumpMessage.Statement (.frameSync t inbound) := fun _ => .inl rfl

theorem PumpMessage.syncWindowClose : PumpMessage.Statement .syncWindowClose := fun _ => .inl rfl

theorem PumpMessage.frameArrival (t : Nat) (inbound : Vector Sample 64) : PumpMessage.Statement (.frameArrival t inbound) := fun _ => .inl rfl

theorem PumpMessage.transmitStart (l : Link) : PumpMessage.Statement (.transmitStart l) := fun _ => .inl rfl

theorem PumpMessage.messageCompletion (l : Link) : PumpMessage.Statement (.messageCompletion l) := fun _ => .inl rfl

theorem PumpMessage.deviceClearComplete : PumpMessage.Statement .deviceClearComplete := fun _ => .inl rfl

theorem PumpMessage.powerOn : PumpMessage.Statement .powerOn := fun _ => .inl rfl

theorem PumpMessage.resetPinAssert : PumpMessage.Statement .resetPinAssert := fun _ => .inl rfl

theorem PumpMessage.resetPinRelease : PumpMessage.Statement .resetPinRelease := fun _ => .inl rfl

theorem PumpMessage.powerOnClearComplete : PumpMessage.Statement .powerOnClearComplete := fun _ => .inl rfl

theorem PumpMessage.handoverTimerTick (c : Chan) : PumpMessage.Statement (.handoverTimerTick c) := fun _ => .inl rfl

theorem PumpMessage.resyncPairSent (l : Link) : PumpMessage.Statement (.resyncPairSent l) := fun _ => .inl rfl

end Sys2Proof.Laws
end

