-- ==== Sys2Proof/Laws/Reception.lean ====
section
/-! SUPPORT. What the operations of the inbound stream and of the engine's choice can do, each said once. -/

namespace Sys2Proof.Machine

/-! ### The inbound stream (R128 to R131) -/

/-- A word read at a header position leaves the stream aligned. -/
theorem headerPosition_aligned (l : Link) (w : Word) : (headerPosition l w).1.aligned = true := by
  unfold headerPosition headerWordIn
  split_ifs <;> rfl

/-- A word keeps the alignment of an aligned stream (R129, R131). -/
theorem Framing.word_aligned (l : Link) {f : Framing} (h : f.aligned = true) (w : Word) :
    (f.word l w).1.aligned = true := by
  cases f with
  | unaligned n => cases h
  | header => exact headerPosition_aligned l w
  | waiting => simp only [Framing.word]; split_ifs; exacts [rfl, headerPosition_aligned l w]
  | extended => simp only [Framing.word]; split_ifs; exacts [rfl, headerPosition_aligned l w]
  | payload g left got => simp only [Framing.word]; split_ifs <;> rfl

/-- The bits of a word, in the order they are sent, make the word again (R128). -/
theorem wordOfBits_wordBits (w : Word) : wordOfBits (wordBits w) = w := by
  have step (n k : Nat) (hk : k < 2 ^ n) (f : Nat → Bool) (hf : ∀ i < n, f i = k.testBit i) :
      ((List.range n).map f).foldr (fun b m => 2 * m + b.toNat) 0 = k := by
    induction n generalizing k f with
    | zero => simp at hk; simp [hk]
    | succ n ih =>
      rw [List.range_succ_eq_map, List.map_cons, List.map_map, List.foldr_cons,
        ih (k / 2) (by omega) (f ∘ Nat.succ) (fun i hi => by
          simp only [Function.comp]; rw [hf (i + 1) (by omega), Nat.testBit_succ])]
      have h0 := hf 0 (by omega)
      rw [Nat.testBit_zero] at h0
      rw [h0]
      rcases Nat.mod_two_eq_zero_or_one k with h | h <;> simp [h] <;> omega
  unfold wordOfBits wordBits
  rw [step 32 w.toNat w.isLt w.getLsbD (fun i _ => rfl)]
  simp

/-- A command that answers a next state is taken to it. -/
theorem State.take_next {s t : State} {i : Instr} (h : exec i s = .next t) : s.take i = t := by
  simp [State.take, h]

/-- Everything a malformed header or message does to a port: the fourth in a row takes the link OUT_OF_STEP without word
alignment; any other leaves the next word at a header position (R130, R131). -/
theorem LinkPort.malformed_eq (p : LinkPort) : p.malformed =
    { p with
      malformedMessages := stick16 p.malformedMessages
      malformedRun := if 3 ≤ p.malformedRun then 0 else p.malformedRun + 1
      state := if 3 ≤ p.malformedRun then .outOfStep else p.state
      framing := if 3 ≤ p.malformedRun then .unaligned 0 else .header
      part := [] } := by
  unfold LinkPort.malformed
  by_cases h : 3 ≤ p.malformedRun
  · simp [h, show 4 ≤ p.malformedRun + 1 by omega]
  · simp [h, show ¬ 4 ≤ p.malformedRun + 1 by omega, LinkPort.atHeader]

/-! ### The engine's choice (R98) -/

/-- Everything the engine's choice can do: nothing, or start a QUEUED job of some link while IDLE. -/
theorem State.chooseJob_cases (s : State) : s.chooseJob = s ∨
    ∃ l j c, s.engine = none ∧ (s.port l).oldestQueued = some j ∧ chanOf j.chan = some c ∧
      s.chooseJob = s.startJob l j c := by
  unfold State.chooseJob
  split
  · exact .inl rfl
  · split
    · split
      · split
        · exact .inr ⟨_, _, _, ‹_›, ‹_›, ‹_›, rfl⟩
        · exact .inl rfl
      · exact .inl rfl
    · exact .inl rfl

/-- A job that the oldest QUEUED one names stands QUEUED in its port. -/
theorem LinkPort.oldestQueued_mem {p : LinkPort} {j : Job} (h : p.oldestQueued = some j) :
    j ∈ p.jobs ∧ j.state = .queued :=
  ⟨List.mem_of_find?_eq_some h, by simpa using List.find?_some h⟩

end Sys2Proof.Machine
end

