-- ==== Sys2Proof/Tests/Slice0.lean ====
section
/-! SUPPORT. Tests on small states: ill-formed commands, message words written out from the formats of chapter 11, one
step of every command with the result of a worked sequence of the manual or of a calculation by hand, and for each
obligation with hypotheses a state and operands that meet them. -/

namespace Sys2Proof.Tests

open Sys2Proof.Machine

set_option maxRecDepth 4000
set_option Elab.async false

/-! ### Small states -/

/-- The state after one command; a command that does not complete leaves the state as it was. -/
def after (i : Instr) (s : State) : State :=
  match exec i s with
  | .next t => t
  | .fault _ | .refused _ => s

/-- A link port that is UP. -/
def upPort : LinkPort := { LinkPort.powerOn with state := .up, framing := .header, timer := true }

/-- Links 0, 1 and 2 UP, link 3 DOWN. -/
def bench : State := { State.reset with links := #v[upPort, upPort, upPort, LinkPort.powerOn] }

/-- A filter of `n` taps of 0, in TRAIN. -/
def training (n : Nat) : Filter :=
  if n = 0 then Filter.free else { Filter.free with taps := List.replicate n 0, gear := .train, resume := .train }

/-- A channel on slot 3 with page 0 and 8 near taps. -/
def call (st : Life) (holder : Option Link) : Channel :=
  { Channel.free with
    state := st, holder := holder, slot := some 3, nn := 8, charge := 8, pages := [0], near := training 8 }

/-- Channel 14 in use on slot 3 with page 0, every other channel FREE. -/
def withCall (ch : Channel) : State :=
  { bench with
    channels := bench.channels.set 14 ch, slotMap := bench.slotMap.set 3 (some 14), freeList := bench.freeList.drop 1
    echoUsed := ch.charge }

/-- Channel 14 ACTIVE, held by link 0. -/
def active : State := withCall (call .active (some 0))

/-- The EQ context of section 6-8: 8 taps, 16 points, half-spacing 1024, TRACK with m 16. -/
def context : EqCtx :=
  { ne := 8, taps := unityTaps 8, line := List.replicate 8 (0, 0), phase := false, lv := 4, a := 1024, mode := .track
    resume := .track, trainM := 16, trackM := 16, peps := 0 }

/-- Channel 14 ACTIVE, held by link 0, with an EQ context. -/
def equalized : State := { withCall { call .active (some 0) with eq := some context } with eqUsed := 8 }

/-- A job of channel 14 for job slot `k`. -/
def job (k : Fin 4) (st : JobState) : Job :=
  { place := k, tag := 7, chan := 14, inputs := [(1900, -3500)], refs := [], state := st }

/-- The engine's job of channel 14, from slot 0 of link 0. -/
def engineJob : RunJob :=
  { link := 0, place := some 0, chan := 14, inputs := [(1900, -3500)], refs := [], outputs := [], closed := false }

/-- The state with channel 14 changed. -/
def edit (f : Channel → Channel) (s : State) : State := s.updChan 14 f

/-- The state with link `l` in another state, or its port changed in another way. -/
def link (l : Link) (f : LinkPort → LinkPort) (s : State) : State := s.updPort l f

/-- The newest response of a link: its code and its further words. -/
def answer (s : State) (l : Link) : Option (Code × List Word) := (s.port l).responses.getLast?.map fun r => (r.code, r.body)

/-- The block whose 16 samples are all `x`. -/
def block (x : Sample) : Block := Vector.replicate 16 x

/-- A playout that is PLAYING with E = 100 and the blocks of some offsets buffered. -/
def playing (offsets : List Nat) : Playout :=
  { Playout.free with
    state := .playing, e := 100, current := some (block 9), readPos := 16
    window := Vector.ofFn fun i => if i.val ∈ offsets then some (block (BitVec.ofNat 16 i.val)) else none }

/-! ### Well-formed commands, headers and messages -/

theorem test_nop_of_64_words_is_ill_formed : WellFormed (.nop 0 0 0 (List.replicate 64 0)) = false := by decide
theorem test_nop_of_63_words_is_well_formed : WellFormed (.nop 0 0 0 (List.replicate 63 0)) = true := by decide
theorem test_eqIn_of_1_word_is_ill_formed : WellFormed (.eqIn 0 0 0 [0]) = false := by decide
theorem test_eqIn_of_26_words_is_ill_formed : WellFormed (.eqIn 0 0 0 (List.replicate 26 0)) = false := by decide

/-- The opcode table gives its rows no bits. -/
theorem test_no_table_word_is_a_command : decodeTableWord 32 1 = none := rfl

/-- Kind 1 in bits 0–5, channel 5 in bits 6–11, length 2 in bits 12–17, tag 17 in bits 18–29 (Table 46). -/
theorem test_words_of_an_open : decodeMessage 0 [0b00000000010001000010000101000001, 4, 0x12C08040] =
    some (.openChannel 0 5 17 (.sizes 4 0x12C08040)) := by decide +kernel
theorem test_word_of_a_nop : decodeMessage 3 [0b00000000000000000000000000011000] = some (.nop 3 0 0 []) := by
  decide +kernel
theorem test_word_of_a_reset : decodeMessage 2 [0b00000000001000000000111111011010] = some (.resetDevice 2 63 8) := by
  decide +kernel
theorem test_words_of_a_poke : decodeMessage 1 [0b00000000000001000010000011010011, 34, 9000000] =
    some (.poke 1 3 1 34 9000000) := by decide +kernel
theorem test_words_of_an_accept : decodeMessage 1 [0b00000000000001000000000011001100] = some (.accept 1 3 1) := by
  decide +kernel
theorem test_words_of_an_eqSet : decodeMessage 1 [0b00000000000001000001000011010001, 2] = some (.eqSet 1 3 1 2) := by
  decide +kernel
theorem test_words_of_a_txBlock : decodeMessage 1 [0b00000000000000001001000011100000, 7, 1, 2, 3, 4, 5, 6, 7, 8] =
    some (.txBlock 1 3 7 #v[1, 2, 3, 4, 5, 6, 7, 8]) := by decide +kernel
theorem test_words_of_an_eqIn : decodeMessage 1 [0b00000000000001000010000011100001, 1, 5] =
    some (.eqIn 1 3 1 [1, 5]) := by decide +kernel
/-- An OPEN of four words, a kind that no pump sends, and a reserved kind (R130). -/
theorem test_malformed_headers : headerOk (0b100000000000001#32) = false ∧ headerOk 48 = false ∧ headerOk 27 = false := by
  decide +kernel

/-! ### Channel contexts -/

/-- Table 11, step 1: OPEN of channel 5 on slot 4 with Nn 64, Nf 128, D 4800 takes pages 0 to 19 and 192 taps. -/
theorem test_open_takes_the_first_pages :
    let s := after (.openChannel 0 5 17 (.sizes 4 0x12C08040)) bench
    (s.chan 5).state = .opening ∧ (s.chan 5).pages = (List.finRange 128).take 20 ∧
      s.freeList = (List.finRange 128).drop 20 ∧ s.echoUsed = 192 := by decide +kernel

/-- R6's example: Nn 20, Nf 100 and D 10,200 become 24, 112 and 10,128, with 40 pages and a cost of 136. -/
theorem test_open_effective_sizes :
    let z := effectiveSizes 20 100 10200
    (z.nn, z.nf, z.d, z.pageCount, z.cost) = (24, 112, 10128, 40, 136) := by decide +kernel

theorem test_contextClearComplete_starts_the_call :
    let s := after (.contextClearComplete 14) (withCall { call .opening (some 0) with near := { Filter.free with
      taps := List.replicate 8 0 } })
    (s.chan 14).state = .active ∧ (s.chan 14).near.gear = .train ∧ (s.chan 14).far.gear = .off := by decide +kernel

/-- R20: the released page stands at the tail of the free list. -/
theorem test_close_returns_the_page :
    let s := after (.closeChannel 0 14 1) active
    (s.chan 14).state = .free ∧ s.freeList.getLast? = some 0 ∧ s.echoUsed = 0 ∧ s.slotMap[3] = none := by decide +kernel

theorem test_close_by_another_link : answer (after (.closeChannel 1 14 1) active) 1 = some (.notHolder, []) := by
  decide +kernel

/-- Channel 5 of section 4-8: 64 near taps, 128 far taps, D 4800, pages 0 to 19, held by link 0; as channel 14. -/
def longCall : State :=
  { withCall { call .active (some 0) with
      nn := 64, nf := 128, d := 4800, near := training 64, far := training 128, charge := 192
      pages := (List.finRange 128).take 20, filled := 5120 } with
    freeList := (List.finRange 128).drop 21, echoUsed := 224 }

/-- Table 23, step 5: with 64 far taps pending, a SET_NEAR of 32 charges 32 + 128. -/
theorem test_setNear_charges_the_larger_far_count :
    let s := after (.setNear 0 14 1 32)
      (edit (fun ch => { ch with
        retune := some { nf := 64, d := 4900, requester := some 0, tag := 19, reserved := 0 } }) longCall)
    answer s 0 = some (.ok, [32 + 160 * 65536]) ∧ s.echoUsed = 192 := by decide +kernel

/-! ### Gears and bulk delay -/

/-- Table 23, step 1: D 5000 reserves page 21. -/
theorem test_setFar_reserves_a_page :
    let s := after (.setFar 0 14 17 (128 + 5000 * 65536)) longCall
    (s.chan 14).pages = (List.finRange 128).take 20 ++ [21] ∧ s.freeList = (List.finRange 128).drop 22 ∧
      (s.chan 14).charge = 192 ∧ (s.chan 14).d = 4800 := by decide +kernel

/-- Table 23, step 2: the superseded retune's page goes to the tail of the free list, its requester hears SUPERSEDED. -/
theorem test_setFar_supersedes :
    let s := after (.setFar 0 14 18 (128 + 4832 * 65536)) (after (.setFar 0 14 17 (128 + 5000 * 65536)) longCall)
    (s.chan 14).pages = (List.finRange 128).take 20 ∧ s.freeList = (List.finRange 128).drop 22 ++ [21] ∧
      answer s 0 = some (.superseded, []) := by decide +kernel

/-- R61, R63: train m 5 becomes 12, track m 40 becomes 30, leak 1 becomes 12; the far filter has no taps and stays OFF. -/
theorem test_setAdapt_makes_values_effective :
    let s := after (.setAdapt 0 14 1 3 (2 + 5 * 256 + 40 * 65536 + 16777216) 1 0) active
    ((s.chan 14).near.gear, (s.chan 14).near.trainM, (s.chan 14).near.trackM, (s.chan 14).near.leak) =
      (.track, 12, 30, 12) ∧ (s.chan 14).far.gear = .off := by decide +kernel

theorem test_clearTaps_leaves_the_unity_tap :
    let s := after (.clearTaps 0 14 1 4) (edit (fun ch => { ch with eq := ch.eq.map fun q => { q with
      taps := List.replicate 8 (5, 5) } }) equalized)
    (s.chan 14).eq.map (fun q => q.taps) =
      some [(0, 0), (0, 0), (0, 0), (0, 0), (4194304, 0), (0, 0), (0, 0), (0, 0)] := by decide +kernel

/-! ### Settings -/

theorem test_setPlayout_clamps :
    answer (after (.setPlayout 0 14 1 (200 + 20 * 256 + 65536)) active) 0 = some (.ok, [12 + 15 * 256 + 65536]) := by
  decide +kernel
theorem test_setLine_stores_the_idle_value :
    let s := after (.setLine 0 14 1 0xFFFE0002) active
    (s.chan 14).loopback = .lineLoop ∧ (s.chan 14).idle = -2 := by decide +kernel
theorem test_setNotices_refuses_a_seventh_kind : answer (after (.setNotices 0 14 1 64) active) 0 = some (.badValue, []) := by
  decide +kernel
theorem test_setNotices_stores_the_mask : ((after (.setNotices 0 14 1 63) active).chan 14).mask = 63 := by decide +kernel

/-! ### Holders and handover -/

/-- Channel 17 of section 7-7 before its handover, as channel 14: shadow 2, E 500, next rx sequence 1200. -/
def shadowed : State :=
  edit (fun ch => { ch with copy := some 2, play := { ch.play with e := 500 }, nextRx := 1200 }) active

/-- Table 32, after step 1. -/
def offered : State :=
  edit (fun ch => { ch with
    state := .handoverPending, copy := some 1, saved := some 2, offer := some { target := 1, window := 20 } }) shadowed

/-- Table 32, step 1. -/
theorem test_handover_sets_the_shadow_aside :
    let s := after (.handover 0 14 1 (.target 1)) shadowed
    s.chan 14 = offered.chan 14 ∧
      (s.port 1).notices = [{ chan := 14, body := .offer (some 0) 20 500 1200 }] := by decide +kernel

/-- Table 32, step 6, with link 3 UP. -/
theorem test_setShadow_of_a_pending_handover_is_saved :
    let s := after (.setShadow 0 14 1 3) (link 3 (fun _ => upPort) offered)
    answer s 0 = some (.ok, [1 + 3 * 256]) ∧ (s.chan 14).copy = some 1 ∧ (s.chan 14).saved = some 3 := by decide +kernel

theorem test_setShadow_to_a_down_link : answer (after (.setShadow 0 14 1 3) active) 0 = some (.linkDown, []) := by
  decide +kernel

/-- Table 32, step 7. -/
theorem test_accept_moves_the_channel :
    let s := after (.accept 1 14 1) offered
    ((s.chan 14).state, (s.chan 14).holder, (s.chan 14).copy, (s.chan 14).saved) = (.active, some 1, none, none) ∧
      (s.port 0).notices = [{ chan := 14, body := .handoverDone 1 }] := by decide +kernel

/-- Section 7-7, ending by DECLINE. -/
theorem test_decline_restores_the_shadow :
    let s := after (.decline 1 14 1) offered
    ((s.chan 14).state, (s.chan 14).holder, (s.chan 14).copy, (s.chan 14).saved) = (.active, some 0, some 2, none) ∧
      (s.port 0).notices = [{ chan := 14, body := .handoverFailed 1 .declined }] := by decide +kernel

/-- Section 7-7, ending by expiry. -/
theorem test_handoverExpiry_tells_both :
    let s := after (.handoverExpiry 14) (edit (fun ch => { ch with offer := some { target := 1, window := 0 } }) offered)
    (s.chan 14).copy = some 2 ∧ (s.port 0).notices = [{ chan := 14, body := .handoverFailed 1 .expired }] ∧
      (s.port 1).notices = [{ chan := 14, body := .offerWithdrawn .expired }] := by decide +kernel

theorem test_handoverTimerTick_counts_down :
    ((after (.handoverTimerTick 14) offered).chan 14).offer = some { target := 1, window := 19 } := by decide +kernel

/-- Channel 40 of section 7-8 after step 5, as channel 14: ORPHANED, copy 1, resume gears TRACK and TRACK. -/
def orphaned : State :=
  edit (fun ch => { ch with
    state := .orphaned, holder := none, copy := some 1, near := { ch.near with gear := .hold, resume := .track }
    eq := some { context with mode := .hold } }) equalized

/-- Table 33, step 6. -/
theorem test_adopt_takes_the_channel :
    let s := after (.adopt 1 14 1) orphaned
    ((s.chan 14).state, (s.chan 14).holder, (s.chan 14).copy, (s.chan 14).near.gear) = (.active, some 1, none, .track) ∧
      (s.port 2).notices.length = 1 ∧ (s.port 1).notices = [] := by decide +kernel

/-- Table 33, step 7. -/
theorem test_adopt_of_a_held_channel : answer (after (.adopt 2 14 1) active) 2 = some (.notOrphaned, []) := by
  decide +kernel

/-- Table 33, step 1, with holder 0 and shadow 1. -/
theorem test_silenceTimerExpiry_orphans :
    let s := after (.silenceTimerExpiry 0) (edit (fun ch => { ch with copy := some 1, convRun := 2, divRun := 1 }) active)
    ((s.chan 14).state, (s.chan 14).holder, (s.chan 14).copy) = (.orphaned, none, some 1) ∧
      ((s.chan 14).near.gear, (s.chan 14).near.resume) = (.hold, .train) ∧ (s.chan 14).convRun + (s.chan 14).divRun = 0 ∧
      (s.port 2).notices = [{ chan := 14, body := .orphaned (some 0) none 0 0 }] ∧ (s.port 0).notices = [] := by
  decide +kernel

/-! ### The equalizer service -/

theorem test_eqOpen_short_form :
    let s := after (.eqOpen 0 14 1 (.short (16 + 2 * 4096))) active
    ((s.chan 14).eq.map fun q => (q.ne, q.lv, q.a, q.mode, q.trainM, q.trackM)) = some (16, 4, 1024, .track, 16, 20) ∧
      s.eqUsed = 16 := by decide +kernel

/-- R92: 9 taps become 10, and the half-spacing of 16 points is at most 10,922. -/
theorem test_eqOpen_clamps :
    ((after (.eqOpen 0 14 1 (.long (16 + 4096) 9 40000)) active).chan 14).eq.map (fun q => (q.ne, q.a)) =
      some (10, 10922) := by decide +kernel

theorem test_eqClose_answers_the_queued_job :
    let s := after (.eqClose 0 14 1) (link 0 (fun p => { p with jobs := [job 2 .queued] }) equalized)
    (s.chan 14).eq = none ∧ s.eqUsed = 0 ∧ (s.port 0).ready = [2] := by decide +kernel

theorem test_eqSet_keeps_the_taps :
    (((after (.eqSet 0 14 1 (3 + 40 * 256)) equalized).chan 14).eq.map fun q => (q.mode, q.trainM, q.trackM, q.taps)) =
      some (.hold, 30, 12, unityTaps 8) := by decide +kernel

/-- Two inputs and no reference, from the holder. -/
theorem test_eqIn_is_queued :
    ((after (.eqIn 0 14 7 [2, 0, 0xF254076C]) equalized).port 0).jobs =
      [{ job 0 .queued with inputs := [(0, 0), (1900, -3500)] }] := by decide +kernel

/-- Table 32, step 5. -/
theorem test_eqIn_from_another_link : ((after (.eqIn 1 14 7 [1, 0]) equalized).port 1).ready = [0] := by decide +kernel

/-- Table 27, at the completion of a: link 1 was served last, and links 1, 0 and 2 have queued jobs. -/
theorem test_jobStart_serves_link_2 :
    let p (s : State) (l : Link) : State := link l (fun p => { p with jobs := [job 0 .queued] }) s
    let s := after .jobStart { p (p (p equalized 0) 1) 2 with eqLast := 1 }
    s.engine.map RunJob.link = some 2 ∧ s.eqLast = 2 := by decide +kernel

/-- Output 1 of section 6-8. -/
theorem test_eqInputPush_first_output :
    let s := after .eqInputPush { edit (fun ch => { ch with eq := some { context with phase := true } }) equalized with
      engine := some engineJob }
    ((s.chan 14).eq.map fun q => (q.taps.head?, q.peps, q.phase)) = some (some (-25, 84), 32768, false) ∧
      s.engine.map RunJob.outputs = some [{ z := (0, 0), reIndex := 2, imIndex := 2 }] := by decide +kernel

/-- Output 3 of section 6-8, with taps 0 and 2 and P_eps as output 2 leaves them. -/
theorem test_eqInputPush_third_output :
    let u : Cplx := (1900, -3500)
    let s := after .eqInputPush { edit (fun ch => { ch with eq := some { context with
        phase := true, peps := 65024, line := [(0, 0), (0, 0), (0, 0), u, (0, 0), (0, 0), (0, 0), (0, 0)]
        taps := [(-25, 84), (0, 0), (-25, 84), (0, 0), (4194304, 0), (0, 0), (0, 0), (0, 0)] } }) equalized with
      engine := some { engineJob with inputs := [(0, 0)] } }
    ((s.chan 14).eq.map fun q => (q.taps.getD 4 (0, 0), q.peps)) = some ((4194256, -34), 78860) ∧
      s.engine.map RunJob.outputs = some [{ z := u, reIndex := 2, imIndex := 0 }] := by decide +kernel

/-- R99, step 5, with Table 39, step 3: the completion itself starts the queued job. -/
theorem test_jobComplete_starts_the_next_job :
    let s := after .jobComplete { link 0 (fun p => { p with jobs := [job 0 .running, job 1 .queued] }) equalized with
      engine := some { engineJob with inputs := [] } }
    s.engine = some { engineJob with place := some 1 } ∧ (s.port 0).jobs.map Job.state =
      [.ready { status := .ok, outputs := [], peps := 0 }, .running] := by decide +kernel

theorem test_jobComplete_readies_the_result :
    let s := after .jobComplete { link 0 (fun p => { p with jobs := [job 0 .running] }) equalized with
      engine := some { engineJob with inputs := [] } }
    s.engine = none ∧ (s.port 0).ready = [0] ∧ (s.chan 14).cnt.eqJobsDone = 1 := by decide +kernel

/-! ### Context inspection and reports -/

/-- Channel 14 of Table 18: near taps 3, 2,097,162 and −1,048,580. -/
def inspected : State :=
  edit (fun ch => { ch with near := { ch.near with taps := [3, 2097162, -1048580, 0, 0, 0, 0, 0] } }) active

/-- Table 45, step 2. -/
theorem test_peek_reads_round_its_group :
    answer (after (.peek 2 14 1 (39 + 8 * 65536)) inspected) 2 =
      some (.ok, [39 + 8 * 65536, 0, 3, 2097162, -1048580, 0, 0, 0, 0]) := by decide +kernel

/-- Table 45, steps 6 and 7. -/
theorem test_poke_clamps :
    answer (after (.poke 0 14 1 34 9000000) inspected) 0 = some (.ok, [34, -1048580, 8388607]) ∧
      answer (after (.poke 0 14 1 290 0) inspected) 0 = some (.readOnly, []) := by decide +kernel

theorem test_watch_clamps_its_interval :
    ((after (.watch 2 14 1 (33 + 1000 * 65536)) active).port 2).watch =
      some { chan := 14, index := 33, interval := 255, countdown := 255 } := by decide +kernel

theorem test_status_clears_after_reading :
    let s := after (.status 0 14 1 (some 3)) (edit (fun ch => { ch with flags := 7 }) active)
    (s.chan 14).flags = 4 ∧ (answer s 0).map (fun r => r.2.getD 19 0) = some (0x27 + 7 * 256) := by decide +kernel

theorem test_counters_clears_after_reading :
    let s := after (.counters 0 14 1 (some 1)) (edit (fun ch => { ch with cnt := { ch.cnt with jumps := 5 } }) active)
    answer s 0 = some (.ok, [0, 0, 0, 0, 0, 0, 5, 0, 0, 0, 0, 0]) ∧ (s.chan 14).cnt = Counters.zero := by decide +kernel

/-- 127 free pages, the monitor ABSENT, links 0 to 2 UP, 8 echo taps and 8 EQ taps in use. -/
theorem test_deviceStatus_words :
    answer (after (.deviceStatus 1 63 1) equalized) 1 = some (.ok, [127 + 0x150000, 8 + 8 * 65536]) := by decide +kernel

theorem test_nop_with_any_channel_field : answer (after (.nop 0 63 1 [1, 2, 3]) bench) 0 = some (.ok, []) := by
  decide +kernel

/-! ### The transmit playout -/

/-- The example of R35: E 100 with offsets 0, 1, 3 and 4 buffered; block 120 jumps. -/
theorem test_txBlock_jumps :
    let s := after (.txBlock 0 14 120 (Vector.replicate 8 0)) (edit (fun ch => { ch with
      play := playing [0, 1, 3, 4] }) active)
    ((s.chan 14).play.e, (s.chan 14).play.depth, (s.chan 14).cnt.jumps) = (105, 1, 1) ∧
      (s.chan 14).play.window[15].isSome = true := by decide +kernel

/-- Table 15, steps 5 and 10: an occupied offset is a duplicate, a sequence number below E is late. -/
theorem test_txBlock_duplicate_and_late :
    let s := edit (fun ch => { ch with play := playing [0, 1] }) active
    ((after (.txBlock 0 14 101 (Vector.replicate 8 0)) s).chan 14).cnt.blocksDuplicate = 1 ∧
      ((after (.txBlock 0 14 99 (Vector.replicate 8 0)) s).chan 14).cnt.blocksLate = 1 := by decide +kernel

/-! ### The highway -/

theorem test_frameSync_locks_at_the_eighth :
    let s := after (.frameSync 4104 (Vector.replicate 64 0)) { bench with goodRun := 7, reference := some 2048 }
    s.locked = true ∧ s.reference = some 6152 ∧ (s.port 1).notices = [{ chan := 63, body := .highwayLocked }] := by
  decide +kernel

theorem test_syncWindowClose_loses_the_highway :
    let s := after .syncWindowClose { bench with locked := true, missedRun := 1, reference := some 2048 }
    s.locked = false ∧ (s.port 1).notices = [{ chan := 63, body := .highwayLost }] := by decide +kernel

/-- Channel 14 of Table 17 with the monitor LOCKED: x_(n-1) is 1000, x_(n-2) is -400, the playout sample is 300. -/
def echoing : State :=
  { edit (fun ch => { ch with
      near := { ch.near with taps := [0, 2097152, -1048576, 0, 0, 0, 0, 0], trainM := 12 }
      py := 10000, pe := 500, asm := [1, 2, 3, 4, 5], writePos := 2, filled := 256
      play := { playing [] with current := some (block 300), readPos := 5 } }) active with
    pool := [(0, -400), (1, 1000)], locked := true, reference := some 2048 }

/-- Table 18: the taps, the error sample 40, the power estimates and the history after frame operation n. -/
theorem test_frameArrival_echo_sample :
    let s := after (.frameArrival 2048 (Vector.replicate 64 640)) echoing
    (s.chan 14).near.taps = [3, 2097162, -1048580, 0, 0, 0, 0, 0] ∧ (s.chan 14).asm = [1, 2, 3, 4, 5, 40] ∧
      ((s.chan 14).py, (s.chan 14).pe) = (16244, 518) ∧ s.pool = [(0, -400), (1, 1000), (2, 300)] ∧
      s.outbound[3] = some 300 := by decide +kernel

/-- Table 23, step 3 of an ORPHANED channel's requester-less retune: the far taps move with the bulk delay. -/
theorem test_frameArrival_block_boundary_retunes :
    let s := after (.frameArrival 2048 (Vector.replicate 64 0)) (edit (fun ch => { ch with
      asm := List.replicate 15 0, nf := 16, d := 4, charge := 24, pages := [0]
      far := { training 16 with gear := .hold, taps := (List.range 16).map (BitVec.ofNat 24) }
      near := { ch.near with gear := .hold }
      retune := some { nf := 16, d := 6, requester := none, tag := 0, reserved := 0 } }) echoing)
    (s.chan 14).far.taps = [2, 3, 4, 5, 6, 7, 8, 9, 10, 11, 12, 13, 14, 15, 0, 0] ∧ (s.chan 14).d = 6 ∧
      (s.chan 14).rxq.map RxEntry.due = [[0]] := by decide +kernel

/-- Section 3-11: the leak of a block with exponent 16. -/
theorem test_leak_truncates_toward_zero :
    (Filter.leaked { training 3 with leak := 16, taps := [3, 2097162, -1048580] }).taps = [3, 2097130, -1048564] ∧
      (Filter.leaked { training 4 with leak := 12, taps := [1000, -5000, 4194304, -8388608] }).taps =
        [1000, -4999, 4193280, -8386560] := by decide +kernel

/-- Table 21, boundaries 8 and 11. -/
theorem test_convergence_and_divergence_complete :
    let ch := { call .active (some 0) with
      convBlocks := 3, divBlocks := 2, convRun := 2, divRun := 1, far := training 64, nf := 64 }
    let near (x : Channel) := (x.near.gear, x.far.gear)
    near (Channel.convergeStep { ch with py := 880000, pe := 9000 }) = (.track, .track) ∧
      near (Channel.convergeStep { ch with py := 900000, pe := 14063 }) = (.train, .train) ∧
      (Channel.divergeStep { ch with py := 650000, pe := 1600000 }).cnt.divergences = 1 ∧
      (Channel.divergeStep { ch with py := 650000, pe := 1300000 }).divRun = 0 := by decide +kernel

/-! ### Pump links -/

theorem test_linkConfig_of_0_stops_the_timer :
    let s := after (.linkConfig 0 63 1 0) bench
    ((s.port 0).setting, (s.port 0).timer) = (0, false) ∧
      ((after (.linkConfig 0 63 1 1000) bench).port 0).setting = 255 := by decide +kernel

/-- Table 39, step 2. -/
theorem test_malformedHeader_fourth_in_a_row :
    let s := after (.malformedHeader 2) (link 2 (fun p => { p with malformedRun := 3, malformedMessages := 3 }) bench)
    ((s.port 2).state, (s.port 2).malformedRun, (s.port 2).malformedMessages) = (.outOfStep, 0, 4) := by decide +kernel

/-- Table 39, step 6. -/
theorem test_resync_of_a_down_link :
    let s := after (.resync 3) bench
    ((s.port 3).state, (s.port 3).tx, (s.port 3).timer) = (.up, .resyncPair, true) := by decide +kernel

/-- R128, R131: 64 ones bring link 3 UP, and the two words of an OPEN that follow, least significant bit first, are taken;
the fourth bad header in a row leaves no word alignment. -/
theorem test_bits_bring_a_link_up_and_carry_a_command :
    let s := bench.receiveWords 3 [0xFFFFFFFF, 0xFFFFFFFF, 0xFFFFFFFF, 0b00000000010001000001000101000001, 4]
    ((s.port 3).state, (s.port 3).framing, (s.chan 5).state, (s.chan 5).slot) = (.up, .header, .opening, some 4) ∧
      ((bench.receiveWords 0 [48, 0, 48, 48, 48]).port 0).framing = .unaligned 0 ∧
      ((bench.receiveWords 0 [48, 0, 48, 48]).port 0).malformedRun = 3 := by decide +kernel

/-- Tables 46, 49 and 50: a CLOSE of channel 5 with tag 3 refused NOT_HOLDER, and the OFFER of channel 14 by link 0. -/
theorem test_words_of_a_response_and_a_notice :
    (OutMsg.response { kind := .closeChannel, chan := 5, tag := 3, code := .notHolder, body := [], entry := none }).words =
      [0b00000000000011000001000101110000, 0x1702] ∧
    (OutMsg.notice { chan := 14, body := .offer (some 0) 20 100 7 }).words =
      [0b00000000000000000011001110110001, 7, 0x1400, 0x00070064] := by decide +kernel

theorem test_resyncPairSent_idles_the_transmitter :
    ((after (.resyncPairSent 0) (link 0 (fun p => { p with tx := .resyncPair }) bench)).port 0).tx = .idle := by
  decide +kernel

/-- R88's example: last served 5, entries on channels 2, 5 and 9; channel 9 is served. -/
theorem test_transmitStart_serves_channel_9 :
    let ch : Channel := { Channel.free with rxq := [{ seq := 40, samples := [], due := [0, 2] }] }
    let s := after (.transmitStart 0)
      (link 0 (fun p => { p with lastServed := 5 }) (((bench.setChan 2 ch).setChan 5 ch).setChan 9 ch))
    (s.port 0).lastServed = 9 ∧ (s.chan 9).rxq.map RxEntry.due = [[2]] ∧ (s.chan 2).rxq = ch.rxq := by decide +kernel

/-- Table 41, step 8, with one notice left in the queue. -/
theorem test_messageCompletion_tells_the_lost_count :
    let n : Notice := { chan := 63, body := .highwayLost }
    let s := after (.messageCompletion 1)
      (link 1 (fun p => { p with lost := 2, notices := [n], tx := .sending (.notice n) }) bench)
    (s.port 1).notices = [n, { chan := 63, body := .noticesLost 2 }] ∧ (s.port 1).lost = 0 := by decide +kernel

/-- Table 41, step 2. -/
theorem test_a_full_notice_queue_loses_the_notice :
    let n : Notice := { chan := 63, body := .highwayLost }
    let p := LinkPort.putNotice { upPort with notices := List.replicate 16 n } n
    (p.notices.length, p.lost, p.noticesLost) = (16, 1, 1) := by decide +kernel

/-! ### Resets -/

theorem test_resetDevice_in_use :
    answer (after (.resetDevice 1 63 1) active) 1 = some (.inUse, []) ∧ (after (.resetDevice 0 63 1) active).clear = .device := by
  decide +kernel

theorem test_deviceClearComplete_answers :
    let s := after .deviceClearComplete (after (.resetDevice 0 63 1) active)
    (s.chan 14).state = .free ∧ s.freeList.length = 128 ∧ answer s 0 = some (.ok, []) ∧
      (s.port 1).notices = [{ chan := 63, body := .resetDone }] := by decide +kernel

theorem test_powerOn_begins_the_clear :
    let s := after .powerOn active
    s.clear = .powerOn ∧ (s.port 0).state = .down ∧ (s.port 0).setting = 50 := by decide +kernel

theorem test_resetPinAssert_holds_the_part :
    let s := after .resetPinAssert active
    s.pin = true ∧ s.clear = .none ∧ after (.resync 0) s = s := by decide +kernel

theorem test_resetPinRelease_begins_the_clear :
    let s := after .resetPinRelease { bench with pin := true }
    s.pin = false ∧ s.clear = .powerOn := by decide +kernel

theorem test_powerOnClearComplete_ends_the_clear :
    let s := after .powerOnClearComplete { active with clear := .powerOn }
    s.clear = .none ∧ (s.chan 14).state = .free ∧ (s.port 1).notices = [] := by decide +kernel

/-! ### Witnesses

For each obligation with hypotheses, states and operands that meet them, clause by clause, at the boundary values. Each
line is the hypotheses of one clause on one input. -/

/-- A port whose 4 intake entries are occupied. -/
def fullPort : LinkPort :=
  { upPort with intake := (List.finRange 4).map fun k => { place := k, msg := .on .setFar 14 0 [0], state := .inProgress } }

theorem witness_CommandsBeforeTheirOwner :
    (Instr.command (.setNear 3 14 1 0) = some (3, .on .setNear 14 1 [0]) ∧ (active.port 3).state ≠ .up) ∧
    ({ active with pin := true }.pin = true) ∧
    (active.pin = false ∧ ((link 0 (fun _ => fullPort) active).port 0).state = .up ∧
      ((link 0 (fun _ => fullPort) active).port 0).freePlace = none) ∧
    (({ active with clear := .powerOn }.port 0).state = .up ∧ ({ active with clear := .powerOn }.port 0).freePlace = some 0) ∧
    (active.Serves 0 0 ∧ 48 ≤ (48#6).toNat ∧ 48 ≤ (62#6).toNat ∧ 62#6 ≠ 63 ∧ 48 ≤ (63#6).toNat ∧ 0#6 ≠ 63) ∧
    (Instr.command (.deviceStatus 0 62 1) = some (0, { kind := .deviceStatus, chan := 62, tag := 1, payload := [] })) := by
  decide +kernel

/-- A channel whose job the engine runs. -/
def running : State := { link 0 (fun p => { p with jobs := [job 0 .running] }) equalized with engine := some engineJob }

/-- A held kind with no job running; a channel OPENING; and, behind a running job, the words on each side of the EQ taps
and a CLEAR_TAPS that names the echo filters alone. -/
theorem witness_HolderCommandsFromOthersAreRefused :
    (Instr.command (.eqClose 1 14 1) = some (1, .on .eqClose 14 1 []) ∧ active.Serves 1 0 ∧
      ¬ (active.chan 14).HeldBy 1 ∧ active.engine = none) ∧
    (let s := withCall (call .opening (some 0)); s.Serves 0 0 ∧ ¬ (s.chan 14).HeldBy 0 ∧ s.engine = none) ∧
    (running.Serves 1 0 ∧ ¬ (running.chan 14).HeldBy 1 ∧ running.jobRuns 14 = true ∧
      Instr.command (.poke 1 14 1 223 0) = some (1, .on .poke 14 1 [223, 0]) ∧ ¬ 224 ≤ (223#32).toNat % 65536 ∧
      Instr.command (.poke 1 14 1 288 0) = some (1, .on .poke 14 1 [288, 0]) ∧ ¬ (288#32).toNat % 65536 ≤ 287 ∧
      Instr.command (.clearTaps 1 14 1 3) = some (1, .on .clearTaps 14 1 [3]) ∧ (3#32).getLsbD 2 = false) := by
  decide +kernel

theorem witness_EqualizerCommandsWaitForTheRunningJob :
    running.Serves 1 0 ∧ running.engine = some engineJob ∧ engineJob.chan = 14 ∧
    Instr.command (.eqClose 1 14 1) = some (1, .on .eqClose 14 1 []) ∧
    (Instr.command (.clearTaps 1 14 1 4) = some (1, .on .clearTaps 14 1 [4]) ∧ (4#32).getLsbD 2 = true) ∧
    (Instr.command (.poke 1 14 1 224 0) = some (1, .on .poke 14 1 [224, 0]) ∧ (287#32).toNat % 65536 ≤ 287) := by
  decide +kernel

theorem witness_DecodingUndoesEncoding :
    (Instr.nop 3 63 4095 (List.replicate 63 1)).isMessage = true ∧ WellFormed (.nop 3 63 4095 (List.replicate 63 1)) = true ∧
    (Instr.eqIn 1 0 0 (List.replicate 25 1)).isMessage = true ∧ WellFormed (.eqIn 1 0 0 (List.replicate 25 1)) = true ∧
    63 < 64 ∧ (List.replicate 16 (0 : Sample)).length = 16 ∧ LinkPort.powerOn.state = .down ∧ upPort.state ≠ .down ∧
    upPort.tx = .idle ∧ { upPort with tx := .resyncPair }.tx = .resyncPair := by
  decide +kernel

/-- The 32nd bit of a word at a header position of link 0. -/
def lastBit (w : Word) : Framing × List Bool × List Instr :=
  Framing.bit 0 .header ((wordBits w).take 31) (w.getLsbD 31)

/-- A message of link 2, words that are no header, bits on an UP and on a DOWN link, the bit that completes a RESYNC pair,
one malformed header, or two, and the malformed header that takes the link OUT_OF_STEP. -/
theorem witness_FramingDeliversTheMessagesSent :
    (∀ p ∈ [(Instr.accept 2 14 1, 3), (Instr.eqIn 2 14 1 [1, 0], 0)],
      p.1.isMessage = true ∧ WellFormed p.1 = true ∧ p.1.link = 2) ∧
    (48#32 ≠ 0 ∧ 48#32 ≠ 0xFFFFFFFF ∧ headerOk 48 = false) ∧ 0 ≤ 63 ∧ 63 ≤ 63 ∧
    (Framing.payload 48 63 []).aligned = true ∧ (bench.pin = false ∧ { bench with pin := true }.pin = true) ∧
    ((bench.port 0).framing.aligned = true ∧ (bench.port 0).state = .up ∧ (Framing.bit 0 .header [] true).2.2 = []) ∧
    ((bench.port 3).framing.aligned = false ∧ (Framing.bit 3 (bench.port 3).framing [] true).2.2 = [] ∧
      (Framing.bit 3 (.unaligned 63) [] true).2.2 = [.resync 3]) ∧
    (lastBit 48).2.2 = [.malformedHeader 0] ∧ (lastBit 48).1.aligned = true ∧
    (Framing.bit 0 .waiting ((wordBits 48).take 31) false).2.2 = [.malformedHeader 0, .malformedHeader 0] ∧
    (after (.malformedHeader 0) (link 0 (fun p => { p with malformedRun := 3 }) bench)).listens 0 = false := by
  decide +kernel

theorem witness_CompletionsAnswerTheirCommand :
    (fullPort.intake.map Entry.place).Nodup ∧
    fullPort.inProgress .setFar 14 = some { place := 0, msg := .on .setFar 14 0 [0], state := .inProgress } ∧
    ∀ e ∈ fullPort.intake, ¬ (e.msg.kind = .setFar ∧ e.msg.chan = 15 ∧ e.state = .inProgress) := by decide +kernel

/-- Counts at and past the largest tap counts. -/
theorem witness_OpenSizesAreMadeEffective : 64 ≤ 64 ∧ 64 < 65 ∧ 128 ≤ 128 ∧ 128 < 129 ∧
    1 < (effectiveSizes 0 128 65535).pageCount := by decide +kernel

/-- The channel checks: not FREE; slot 64; loopback 3; a slot taken; one tap beyond the budget; one page short. -/
theorem witness_OpenIsRefusedByTheFirstFailingCheck :
    (active.Serves 1 0 ∧ (active.chan 14).state ≠ .free) ∧
    ((active.chan 5).state = .free ∧ 63 < (64#32).toNat % 256 ∧ (3#32).toNat % 4 = 3) ∧
    ((3#32).toNat % 256 = 3 ∧ (active.slotMap.toList.getD 3 none).isSome = true) ∧
    (let m := CmdMsg.on .openChannel 5 1 [4]
     (active.slotMap.toList.getD 4 none).isSome = false ∧ 6144 < 6113 + (openSizes m).cost ∧
       ¬ 6144 < 6112 + (openSizes m).cost ∧ ([] : List Page).length < (openSizes m).pageCount) := by decide +kernel

theorem witness_OpenReservesAndStartsTheClear :
    let m := CmdMsg.on .openChannel 5 1 [63]
    let s := { active with echoUsed := 6112, freeList := [7] }
    s.Serves 0 0 ∧ (s.chan 5).state = .free ∧ (m.word 1).toNat % 256 = (63 : Slot).val ∧
      loopbackOf ((m.word 3).toNat % 4) = some .noLoop ∧ s.slotMap[63] = none ∧ s.echoUsed + (openSizes m).cost ≤ 6144 ∧
      (openSizes m).pageCount ≤ s.freeList.length := by decide +kernel

theorem witness_ContextClearStartsTheCall :
    (let s := withCall (call .opening (some 0))
     (s.chan 14).state = .opening ∧ s.clear = .none ∧ (s.chan 14).holder = some 0 ∧ s.pool.wf = true) ∧
    (let s := withCall (call .opening none)
     (s.chan 14).state = .opening ∧ s.clear = .none ∧ (s.chan 14).holder = none ∧ s.pool.wf = true) := by decide +kernel

theorem witness_CloseFreesTheChannel :
    (active.Serves 0 0 ∧ (active.chan 14).HeldBy 0) ∧ (orphaned.Serves 1 0 ∧ (orphaned.chan 14).state = .orphaned) ∧
    (active.Serves 1 0 ∧ ¬ (active.chan 14).HeldBy 1 ∧ (active.chan 14).state ≠ .orphaned) := by decide +kernel

/-- A budget that a SET_NEAR of 64 meets exactly, and one that it exceeds by 1. -/
theorem witness_SetNearResizesTheNearFilter :
    (let s := { active with echoUsed := 6089 }
     s.Serves 0 0 ∧ (s.chan 14).HeldBy 0 ∧ 6144 < s.echoUsed - (s.chan 14).charge + 64) ∧
    (let s := { active with echoUsed := 6088 }
     s.Serves 0 0 ∧ (s.chan 14).HeldBy 0 ∧ s.echoUsed - (s.chan 14).charge + 64 ≤ 6144) := by decide +kernel

/-- Far sizes 128 and D 5000 on the channel of section 4-8: they fit; the budget is 1 short; the one page is missing. -/
theorem witness_SetFarReservesItsRetune :
    let z : Sizes := { effectiveSizes 0 128 5000 with nn := 64 }
    (longCall.Serves 0 0 ∧ (longCall.chan 14).HeldBy 0 ∧ 224 - 192 + max 192 (64 + z.nf) ≤ 6144 ∧
      z.pageCount - (longCall.chan 14).pages.length ≤ longCall.freeList.length) ∧
    (6144 < 6145 - 192 + max 192 (64 + z.nf) ∧ { longCall with echoUsed := 6145 }.Serves 0 0) ∧
    (({ longCall with freeList := [] }.freeList.length + 0 < z.pageCount - (20 - 0)) ∧
      { longCall with freeList := [] }.Serves 0 0) := by decide +kernel

theorem witness_SetAdaptReplacesThePresentGroups :
    (active.Serves 0 0 ∧ (active.chan 14).HeldBy 0) ∧ (0#32).toNat % 8 = 0 ∧
    ((1#32).getLsbD 0 = true ∧ 3 < (4#32).toNat % 8) ∧ ((2#32).getLsbD 1 = true ∧ 3 < (4#32).toNat % 8) ∧
    ((0x44#32).getLsbD 2 = true ∧ 3 < (0x44#32).toNat / 16 % 16) ∧
    ¬ ((7#32).toNat % 8 = 0 ∨ 3 < (3#32).toNat % 8 ∨ 3 < (0x37#32).toNat / 16 % 16) := by decide +kernel

theorem witness_ClearTapsZeroesTheNamedFilters :
    (active.Serves 0 0 ∧ (active.chan 14).HeldBy 0 ∧ active.jobRuns 14 = false) ∧
    ((0#32).toNat % 256 = 0 ∧ 8 ≤ (8#32).toNat % 256) ∧ ((4#32).getLsbD 2 = true ∧ (active.chan 14).eq = none) ∧
    (equalized.Serves 0 0 ∧ (equalized.chan 14).HeldBy 0 ∧ equalized.jobRuns 14 = false ∧
      ¬ ((7#32).toNat % 256 = 0 ∨ 8 ≤ (7#32).toNat % 256 ∨ (equalized.chan 14).eq = none)) ∧
    ((3#32).getLsbD 2 = false ∧ running.jobRuns 14 = true ∧ (running.chan 14).HeldBy 0 ∧ running.Serves 0 0) := by
  decide +kernel

theorem witness_SettingsOfPlayoutLineAndNoticesAreStored :
    (active.Serves 0 0 ∧ (active.chan 14).HeldBy 0) ∧ (0x10000#32).toNat / 65536 % 4 = Fill.repeatLast.code ∧
    2 ≤ (0x20000#32).toNat / 65536 % 4 ∧ (2#32).toNat % 4 = Loopback.lineLoop.code ∧ (3#32).toNat % 4 = 3 ∧
    (63#32).toNat % 256 < 64 ∧ 64 ≤ (64#32).toNat % 256 := by decide +kernel

theorem witness_SetShadowNamesTheCopyDestination :
    (active.Serves 0 0 ∧ (active.chan 14).HeldBy 0) ∧ (0#32).toNat % 256 = (0 : Link).val ∧
    (4 ≤ (4#32).toNat % 256 ∧ (4#32).toNat % 256 ≠ 255 ∧ (254#32).toNat % 256 ≠ 255) ∧
    ((3#32).toNat % 256 = (3 : Link).val ∧ (3 : Link) ≠ 0 ∧ (active.port 3).state = .down) ∧
    ((2#32).toNat % 256 = (2 : Link).val ∧ (2 : Link) ≠ 0 ∧ (active.port 2).state ≠ .down) ∧
    ((255#32).toNat % 256 = 255) ∧
    (offered.Serves 0 0 ∧ (offered.chan 14).HeldBy 0 ∧ (offered.chan 14).state = .handoverPending) := by decide +kernel

theorem witness_HandoverOffersTheChannel :
    (active.Serves 0 0 ∧ (active.chan 14).state = .active ∧ (active.chan 14).holder = some 0 ∧
      ((CmdMsg.on .handover 14 1 [2]).word 1).toNat % 256 = (2 : Link).val ∧ (2 : Link) ≠ 0 ∧ (active.port 2).state ≠ .down) ∧
    ((withCall (call .opening (some 0))).Serves 0 0 ∧ ((withCall (call .opening (some 0))).chan 14).state = .opening) ∧
    ((orphaned.chan 14).state = .orphaned ∧ orphaned.Serves 0 0) ∧ (active.Serves 1 0 ∧ (active.chan 14).holder ≠ some 1) ∧
    (offered.Serves 0 0 ∧ (offered.chan 14).state = .handoverPending ∧ (offered.chan 14).holder = some 0) ∧
    (3 < (4#32).toNat % 256 ∧ (0#32).toNat % 256 = (0 : Link).val) ∧
    (∃ i : Link, (3#32).toNat % 256 = i.val ∧ (active.port i).state = .down) := by decide +kernel

theorem witness_AcceptMakesTheTargetTheHolder :
    let o : Offer := { target := 1, window := 20 }
    (offered.Serves 1 0 ∧ (offered.chan 14).offer = some o ∧ o.target = 1 ∧ (offered.chan 14).state = .handoverPending ∧
      (offered.chan 14).holder = some 0 ∧ (0 : Link) ≠ 1) ∧
    (let s := edit (fun ch => { ch with offer := some o }) orphaned
     s.Serves 1 0 ∧ (s.chan 14).offer = some o ∧ (s.chan 14).state = .orphaned ∧ (s.chan 14).holder = none) := by
  decide +kernel

theorem witness_OffersEndByDeclineAndExpiry :
    let o : Offer := { target := 1, window := 20 }
    (offered.Serves 1 0 ∧ (offered.chan 14).offer = some o ∧ o.target = 1 ∧ (offered.chan 14).state = .handoverPending ∧
      (offered.chan 14).holder ≠ some 1 ∧ offered.clear = .none ∧ o.window ≠ 0) ∧
    (let s := edit (fun ch => { ch with offer := some { o with window := 0 } }) orphaned
     s.Serves 1 0 ∧ (s.chan 14).offer = some { o with window := 0 } ∧ (s.chan 14).state = .orphaned ∧ s.clear = .none ∧
       (s.chan 14).holder ≠ some 1) ∧
    (offered.Serves 2 0 ∧ ∀ p ∈ (offered.chan 14).offer, p.target ≠ 2) ∧
    ((active.chan 14).offer = none ∧ { offered with clear := .powerOn }.clear ≠ .none) := by decide +kernel

theorem witness_AdoptTakesAnOrphanedChannel :
    (active.Serves 1 0 ∧ (active.chan 14).state ≠ .orphaned) ∧ (orphaned.Serves 1 0 ∧ (orphaned.chan 14).state = .orphaned) := by
  decide +kernel

theorem witness_EqOpenMakesAContext :
    (active.Serves 0 0 ∧ (active.chan 14).HeldBy 0 ∧ active.jobRuns 14 = false) ∧
    ((32#32).toNat % 512 ∉ [4, 16, 64, 256] ∧ (4#32).toNat / 4096 % 8 = 0 ∧ 3 < (0x4004#32).toNat / 4096 % 8) ∧
    ((0x3100#32).toNat % 512 = 16 * 16 ∧ (0x3100#32).toNat / 4096 % 8 = EqMode.hold.code ∧
      (0x1004#32).toNat % 512 = 2 * 2 ∧ (0x1004#32).toNat / 4096 % 8 = EqMode.train.code) ∧
    (768 < { active with eqUsed := 753 }.eqUsed - 0 + 16 ∧ { active with eqUsed := 752 }.eqUsed - 0 + 16 ≤ 768) := by
  decide +kernel

theorem witness_EqCloseAndEqSetChangeTheContext :
    (active.Serves 0 0 ∧ (active.chan 14).HeldBy 0 ∧ active.jobRuns 14 = false ∧ (active.chan 14).eq = none) ∧
    (equalized.Serves 0 0 ∧ (equalized.chan 14).HeldBy 0 ∧ equalized.jobRuns 14 = false ∧
      (equalized.chan 14).eq = some context) ∧
    ((0#32).toNat % 8 = 0 ∧ 3 < (4#32).toNat % 8 ∧ (3#32).toNat % 8 = EqMode.hold.code) := by decide +kernel

/-- 16 inputs and 8 references, 1 input and none; no free slot; 17 inputs, none, 9 references, and a wrong length. -/
theorem witness_EqInTakesAJobSlot :
    let formed (ws : List Word) : Prop :=
      let n := (ws.getD 0 0).toNat % 32
      let r := (ws.getD 0 0).toNat / 256 % 16
      1 ≤ n ∧ n ≤ 16 ∧ r ≤ 8 ∧ ws.length = n + r + 1
    let full := (List.finRange 4).map fun k => job k .queued
    (equalized.pin = false ∧ (equalized.port 0).state = .up ∧ equalized.clear = .none) ∧
    (formed ((16 + 8 * 256) :: List.replicate 24 0) ∧ formed [1, 0] ∧ (equalized.port 0).freeJobPlace = some 0) ∧
    (((link 0 (fun p => { p with jobs := full }) equalized).port 0).freeJobPlace = none) ∧
    ¬ formed (17 :: List.replicate 17 0) ∧ ¬ formed [0, 0] ∧ ¬ formed ((1 + 9 * 256) :: List.replicate 10 0) ∧
    ¬ formed [1, 0, 0] ∧
    (bench.port 3).state ≠ .up ∧ { equalized with pin := true }.pin = true ∧
    ({ equalized with clear := .device }.clear ≠ .none ∧ ({ equalized with clear := .device }.port 0).state = .up) ∧
    (48 ≤ (48#6).toNat ∧ 48 ≤ (63#6).toNat) := by decide +kernel

theorem witness_JobStartTakesTheNextLinksOldestJob :
    let queued (s : State) (l : Link) : List Job := (s.port l).jobs.filter fun j => decide (j.state = .queued)
    let s := link 3 (fun p => { p with jobs := [job 1 .queued, job 0 .queued] }) equalized
    (s.engine = none ∧ s.eqLast + 1 + 3 = 3 ∧ (∀ d : Fin 4, d < 3 → queued s (s.eqLast + 1 + d) = []) ∧
      queued s (s.eqLast + 1 + 3) = job 1 .queued :: [job 0 .queued] ∧ (job 1 .queued).chan = fieldOfChan 14) ∧
    running.engine ≠ none ∧ ∀ l, queued active l = [] := by decide +kernel

theorem witness_InputPushFiltersDecidesAndAdapts :
    (running.engine = some engineJob ∧ engineJob.closed = false ∧ engineJob.inputs = (1900, -3500) :: [] ∧
      (running.chan engineJob.chan).eq = some context ∧ context.phase = false) ∧
    (let s := { running with
       channels := (edit (fun ch => { ch with eq := some { context with phase := true, mode := .train } }) running).channels }
     (s.chan engineJob.chan).eq = some { context with phase := true, mode := .train }) := by decide +kernel

/-- A value on the boundary between two levels, for the fewest and the most levels. -/
theorem witness_SlicerDecidesTheNearestLevel :
    2 ∈ [2, 4, 8, 16] ∧ 16 ∈ [2, 4, 8, 16] ∧ 1 ≤ 1 ∧ sliceLevel 4 1024 2048 = 3072 ∧ sliceLevel 2 1 0 = 1 := by
  decide +kernel

theorem witness_JobCompleteReleasesTheEngine :
    (({ running with engine := some { engineJob with inputs := [] } }.engine = some { engineJob with inputs := [] })) ∧
    (({ engineJob with closed := true } : RunJob).closed = true) ∧
    (running.engine = some engineJob ∧ engineJob.inputs ≠ [] ∧ engineJob.closed = false) ∧
    (let m := CmdMsg.on .eqClose 14 9 []
     let p : LinkPort := { upPort with
       state := .outOfStep, framing := .unaligned 0, intake := [{ place := 2, msg := m, state := .waiting }] }
     let s : State := link 0 (fun _ => p) equalized
     let t := after (.eqClose 0 14 9) { link 0 (fun p => { p with state := .up, intake := [] }) s with engine := none }
     Instr.command (.eqClose 0 14 9) = some (0, m) ∧ m.kind = .eqClose ∧ (p.intake.map Entry.place).Nodup ∧
       { place := 2, msg := m, state := .waiting } ∈ (s.port 0).intake ∧
       (t.port 0).responses = [{ kind := .eqClose, chan := 14, tag := 9, code := .ok, body := [], entry := some 0 }]) := by
  decide +kernel

theorem witness_PeekReadsABurstOfContextWords :
    (active.Serves 3 0 ∨ active.Serves 2 0) ∧
    (let s := withCall (call .opening (some 0)); s.Serves 1 0 ∧ (s.chan 14).state = .opening) ∧
    ((active.chan 14).state ≠ .opening ∧ (0x30000#32).toNat / 65536 % 256 ∉ [1, 2, 4, 8] ∧ 303 < (0x1012F#32).toNat % 65536 + 1 ∧
      303 < (0x10130#32).toNat % 65536) ∧
    ((0x8012F#32).toNat / 65536 % 256 ∈ [1, 2, 4, 8] ∧ (0x8012F#32).toNat % 65536 ≤ 303) ∧
    ((equalized.chan 14).eq = some context ∧ (active.chan 14).eq = none) := by decide +kernel

/-- Each range of indexes at both its ends, on a channel with 8 near taps, no far taps and 8 EQ taps. -/
theorem witness_PokeWritesOneTap :
    (equalized.Serves 0 0 ∧ (equalized.chan 14).HeldBy 0 ∧ equalized.jobRuns 14 = false) ∧
    ((equalized.chan 14).nn = 8 ∧ (equalized.chan 14).nf = 0 ∧ (equalized.chan 14).eq = some context) ∧
    (31 ≤ 31 ∧ 288 ≤ 288 ∧ 303 ≤ 303 ∧ 304 ≤ 304) ∧
    (39 < 32 + 8 ∧ 32 + 8 ≤ 40 ∧ 96 + 0 ≤ 96 ∧ 239 < 224 + 2 * context.ne ∧ 224 + 2 * context.ne ≤ 240) ∧
    (let s := edit (fun ch => { ch with nf := 16, far := training 16 }) active
     (s.chan 14).HeldBy 0 ∧ s.Serves 0 0 ∧ 111 < 96 + (s.chan 14).nf) := by decide +kernel

theorem witness_WatchSamplesAtBlockBoundaries :
    let v (n : Nat) : Watch := { chan := 14, index := 303, interval := 255, countdown := n }
    (active.Serves 1 0 ∧ (active.chan 0).state = .free) ∧
    (let s := withCall (call .opening (some 0)); s.Serves 1 0 ∧ (s.chan 14).state = .opening) ∧
    ((active.chan 14).state ≠ .free ∧ (active.chan 14).state ≠ .opening ∧ 303 < (304#32).toNat % 65536 ∧
      (303#32).toNat % 65536 ≤ 303) ∧
    (((link 1 (fun p => { p with watch := some (v 2) }) active).port 1).watch = some (v 2) ∧ 1 < (v 2).countdown ∧
      (v 1).countdown = 1 ∧ (v 1).chan ≠ 0) := by decide +kernel

theorem witness_StatusAndCountersReadAndClear :
    (active.Serves 1 0 ∧ active.Serves 0 0) ∧ 512 ≤ (512#32).toNat % 65536 ∧ (511#32).toNat % 65536 < 512 ∧
    (let s := withCall (call .opening (some 0)); s.Serves 1 0 ∧ (s.chan 14).state = .opening) ∧
    ((active.chan 14).state ≠ .opening ∧ ¬ (active.chan 14).HeldBy 1 ∧ (active.chan 14).HeldBy 0) ∧
    ((1#32).getLsbD 0 = true ∧ ¬ (0#32).getLsbD 0 = true) := by decide +kernel

theorem witness_NopAndDeviceStatusAreAnswered :
    active.Serves 0 0 ∧
    (let s := { active with clear := .device }
     s.pin = false ∧ (s.port 0).state = .up ∧ (s.port 0).freePlace = some 0) := by decide +kernel

/-- Offsets 0 and 15 empty and occupied, 16 and 32,767 ahead, 32,768 and 65,535 late; the target of an offer; a link that
is neither; a playout that starts and one that does not. -/
theorem witness_TxBlockIsPlacedByItsOffset :
    (active.pin = false ∧ (active.port 0).state = .up ∧ active.clear = .none) ∧
    ((active.chan 14).state = .active ∧ (active.chan 14).holder = some 0 ∧ (active.chan 14).holder ≠ some 1) ∧
    ((offered.chan 14).state = .handoverPending ∧ ((offered.chan 14).offer.map Offer.target) = some 1) ∧
    ((0 : Nat) < 16 ∧ (active.chan 14).play.window[0] = none ∧ (active.chan 14).play.window[15] = none) ∧
    ((playing [0, 15]).window[0] ≠ none ∧ (playing [0, 15]).window[15] ≠ none) ∧
    ((116 - 100 : Seq).toNat = 16 ∧ (32867 - 100 : Seq).toNat = 32767 ∧ (32868 - 100 : Seq).toNat = 32768 ∧
      (99 - 100 : Seq).toNat = 65535) ∧
    (let p := { playing [3, 4, 5] with state := .priming }
     p.startDepth ≤ p.depth ∧ p.window[3] ≠ none ∧ ∀ i : Fin 16, i < 3 → p.window[i] = none) ∧
    ((playing [3]).state = .playing ∧ (playing [3]).depth < (playing [3]).startDepth) ∧
    ((active.port 3).state ≠ .up ∧ { active with pin := true }.pin = true ∧ { active with clear := .device }.clear ≠ .none ∧
      48 ≤ (48#6).toNat ∧ 48 ≤ (63#6).toNat) := by decide +kernel

/-- A fall from 2 to 1 and a rise from 1 to 2 across the low watermark 1, with the kinds in the mask. -/
theorem witness_WatermarkEdgesAreTold :
    let s (os : List Nat) := edit (fun ch => { ch with play := playing os, mask := 0x18 }) active
    (∀ h ∈ ((s [0]).chan 14).holder, ((s [0]).chan 14).copy ≠ some h) ∧
    (((s [0]).chan 14).play.lowWater < 2 ∧ ((s [0]).chan 14).play.depth ≤ 1 ∧ ((s [0]).chan 14).mask.getLsbD 3 = true) ∧
    (1 ≤ ((s [0, 1]).chan 14).play.lowWater ∧ 1 < ((s [0, 1]).chan 14).play.depth ∧
      ((s [0, 1]).chan 14).mask.getLsbD 4 = true) ∧
    (1 ≤ ((s [0]).chan 14).play.lowWater ↔ ((s [0]).chan 14).play.depth ≤ 1) ∧
    ((active.chan 14).mask.getLsbD 3 = false ∧ (active.chan 14).mask.getLsbD 4 = false) := by decide +kernel

theorem witness_PlayoutGivesTheNextSample :
    ((active.chan 14).play.state = .priming) ∧
    (let p := { playing [0] with readPos := 15 }
     p.state = .playing ∧ p.current = some (block 9) ∧ p.readPos < 16) ∧
    ((playing [0]).state = .playing ∧ (playing [0]).readPos = 16 ∧ (playing [0]).window[0] = some (block 0)) ∧
    ((playing [1]).readPos = 16 ∧ (playing [1]).window[0] = none ∧ 0 < (playing [1]).depth) ∧
    (({ playing [] with current := none } : Playout).current = none ∧ (playing []).depth = 0) := by decide +kernel

theorem witness_HistoryKeepsTheLatestSamples :
    let s := edit (fun ch => { ch with writePos := 255, filled := 256 }) echoing
    s.pool.wf = true ∧ (s.chan 14).pages.Nodup ∧ 0 < (s.chan 14).ringLength ∧
      (s.chan 14).writePos < (s.chan 14).ringLength ∧ (s.chan 14).filled ≤ (s.chan 14).ringLength := by decide +kernel

/-- A leaky filter with a tap at each bound and one below the leak; and both power estimates at 2^30. -/
theorem witness_LeakAndPowerFollowTheirRules :
    (let f := { training 3 with leak := 12, taps := [8388607, -8388608, 4095] }
     2 < f.taps.length ∧ f.gear = .train ∧ 0 < f.leak ∧ 0 ≤ (8388607#24).toInt ∧ (-8388608#24).toInt < 0 ∧
       |(4095#24).toInt| < 2 ^ f.leak) ∧
    ((training 0).gear = .off ∧ (training 3).leak = 0) ∧
    ((-32768 : Int) ≤ -32768 ∧ (32767 : Int) ≤ 32767 ∧
      ({ call .active (some 0) with py := 0x40000000, pe := 0x40000000 } : Channel).py.toNat ≤ 2 ^ 30) ∧
    (0x80000000#32).toNat ≤ 2 ^ 31 := by decide +kernel

/-- A saturated error and a clamped tap, each with and without the other. -/
theorem witness_EchoIsEstimatedAndTapsUpdated :
    let ch (t : Tap) : Channel := { call .active (some 0) with
      writePos := 1, filled := 1, near := { training 8 with trainM := 12, taps := t :: List.replicate 7 0 } }
    (ch 8388607).near.gear = .train ∧
    ((ch (-8388608)).difference [(0, 32767)] 32767 ≠ (ch (-8388608)).error [(0, 32767)] 32767) ∧
    ((ch 8388607).difference [(0, 100)] 32767 = (ch 8388607).error [(0, 100)] 32767 ∧
      (ch 8388607).near.clamps ((ch 8388607).error [(0, 100)] 32767) ((ch 8388607).nearAge [(0, 100)]) = true) ∧
    (ch 0).near.clamps ((ch 0).error [(0, 100)] 32767) ((ch 0).nearAge [(0, 100)]) = false := by decide +kernel

theorem witness_FrameOperationRunsItsStages :
    (echoing.chan 14).slot = some 3 ∧ ((echoing.chan 14).asm ++ [(40 : Sample)]).length < 16 ∧
    16 ≤ (List.replicate 15 (0 : Sample) ++ [40]).length := by decide +kernel

/-- Table 21: boundaries 1, 8 and 11, and the run lengths that complete and those that are 1 short. -/
theorem witness_ConvergenceAndDivergenceAreJudgedByRuns :
    let ch : Channel := { call .active (some 0) with convBlocks := 3, divBlocks := 2 }
    (ch.autoNear = true ∧ ch.near.taps ≠ [] ∧ ch.near.gear = .train) ∧
    (ch.floor ≤ 880000 ∧ 9000 * 2 ^ ch.c ≤ 880000 ∧ ¬ ch.floor ≤ 2000) ∧
    (1 + 1 < ch.convBlocks ∧ ch.convBlocks ≤ 2 + 1) ∧
    (ch.floor ≤ 650000 ∧ 2 * 650000 < 1600000 ∧ 0 + 1 < ch.divBlocks ∧ ch.divBlocks ≤ 1 + 1) ∧
    0 < (650000#32).toNat ∧
    (∀ h ∈ ch.holder, ch.copy ≠ some h) ∧ (ch.mask.getLsbD 0 = true ∧ ch.mask.getLsbD 3 = false) := by decide +kernel

/-- Table 23, between steps 2 and 3: 128 far taps and D 4832 are pending. -/
def retuning : State :=
  edit (fun ch => { ch with retune := some { nf := 128, d := 4832, requester := some 0, tag := 18, reserved := 0 } }) longCall

/-- The same channel after the loss of its holder, its gears held. -/
def retuningOrphan : State := after (.silenceTimerExpiry 0) retuning

set_option synthInstance.maxHeartbeats 400000 in
set_option synthInstance.maxSize 2000 in
theorem witness_RetuneShiftsTapsAndKeepsHistory :
    (retuning.PoolSound ∧ (retuning.chan 14).Sound ∧ (retuning.chan 14).pages.Nodup ∧
      (retuning.chan 14).state = .active ∧
      (retuning.chan 14).retune = some { nf := 128, d := 4832, requester := some 0, tag := 18, reserved := 0 }) ∧
    (retuningOrphan.PoolSound ∧ (retuningOrphan.chan 14).Sound ∧ (retuningOrphan.chan 14).pages.Nodup ∧
      (retuningOrphan.chan 14).state = .orphaned ∧
      (retuningOrphan.chan 14).retune = some { nf := 128, d := 4832, requester := none, tag := 18, reserved := 0 }) := by
  refine ⟨⟨?_, ?_, ?_, ?_, ?_⟩, ⟨?_, ?_, ?_, ?_, ?_⟩⟩ <;> decide +kernel

/-- A channel without recipients, one with a holder, and one whose queue holds 8 entries. -/
theorem witness_ClosedRxBlocksJoinTheQueue :
    let e : RxEntry := { seq := 0, samples := [], due := [1] }
    let full := { (orphaned.chan 14) with rxq := List.replicate 8 e }
    ((withCall (call .orphaned none)).chan 14).copy = none ∧ ((withCall (call .orphaned none)).chan 14).holder = none ∧
    ((active.chan 14).holder.toList ++ (active.chan 14).copy.toList ≠ [] ∧ (active.chan 14).rxq.length < 8) ∧
    (full.holder.toList ++ full.copy.toList ≠ [] ∧ (full.holder.toList ++ full.copy.toList).Nodup ∧
      full.rxq = e :: List.replicate 7 e ∧ 8 ≤ full.rxq.length) := by decide +kernel

/-- A notice, a response, a bare result, and an rx queue entry due to some links. -/
def aNotice : Notice := { chan := 63, body := .highwayLost }
def aResponse : Response := { kind := .nop, chan := 0, tag := 0, code := .ok, body := [], entry := some 0 }
def aResult : EqResult := EqResult.bare .noEq
def rxEntry (due : List Link) : RxEntry := { seq := 0, samples := [], due := due }

/-- Link 0 with a ready result, and with an rx queue whose first entry is not due to it. -/
def readyPort : LinkPort := { upPort with jobs := [job 2 (.ready aResult)], ready := [2] }
def delivering : State := edit (fun ch => { ch with rxq := [rxEntry [1], rxEntry [0, 1], rxEntry [0]] }) active

theorem witness_TransmitterSendsByPriority :
    (upPort.state ≠ .down ∧ upPort.tx = .idle) ∧
    { upPort with responses := [aResponse] }.responses = aResponse :: [] ∧
    ({ upPort with notices := [aNotice] }.responses = [] ∧ { upPort with notices := [aNotice] }.notices = aNotice :: []) ∧
    (readyPort.responses = [] ∧ readyPort.notices = [] ∧ readyPort.ready = 2 :: [] ∧
      job 2 (.ready aResult) ∈ readyPort.jobs ∧ (job 2 (.ready aResult)).place = 2 ∧
      (readyPort.jobs.map Job.place).Nodup ∧ (job 2 (.ready aResult)).state = .ready aResult) ∧
    ((delivering.port 0).lastServed + 1 + 14 = (14 : Chan) ∧
      (∀ d : Chan, d < 14 → ∀ x ∈ (delivering.chan ((delivering.port 0).lastServed + 1 + d)).rxq, (0 : Link) ∉ x.due) ∧
      (delivering.chan 14).rxq = [rxEntry [1]] ++ rxEntry [0, 1] :: [rxEntry [0]] ∧
      (∀ x ∈ [rxEntry [1]], (0 : Link) ∉ x.due) ∧ (0 : Link) ∈ (rxEntry [0, 1]).due) ∧
    (∀ c, ∀ x ∈ (active.chan c).rxq, (0 : Link) ∉ x.due) := by
  refine ⟨by decide +kernel, by decide +kernel, by decide +kernel, by decide +kernel, by decide +kernel, by decide +kernel⟩

theorem witness_MessageCompletionFreesWhatWasSent :
    let d : WatchData := { chan := 14, index := 0, rxSeq := 0, word := 0, py := 0, pe := 0, gears := 0 }
    let sends (m : OutMsg) : Prop :=
      ((link 0 (fun p => { p with tx := .sending m }) bench).port 0).tx = .sending m
    sends (.response aResponse) ∧ sends (.notice aNotice) ∧ sends (.eqOut 0 14 (EqResult.bare .ok) (some 3)) ∧ sends (.rxBlock 14 0 []) ∧
    sends (.watchData d) ∧ { upPort with tx := .resyncPair }.tx = .resyncPair ∧ (bench.port 0).tx = .idle ∧
    (List.replicate 15 aNotice).length < 16 ∧ 16 ≤ (List.replicate 16 aNotice).length := by decide +kernel

theorem witness_LinkConfigSetsTheSilenceTimer : active.Serves 1 0 := by decide +kernel

theorem witness_LinksGoUpAndOutOfStep :
    bench.pin = false ∧ (bench.port 0).state = .up ∧ (bench.port 3).state ≠ .up ∧ { bench with pin := true }.pin = true := by
  decide +kernel

theorem witness_SilenceTakesTheLinkDown :
    (active.port 0).state ≠ .down ∧ (active.port 0).timer = true ∧ (active.port 3).state = .down ∧
    ((link 0 (fun p => { p with timer := false }) active).port 0).timer = false := by decide +kernel

/-- A sync at each edge of the window, and one period outside it. -/
theorem witness_EightGoodSyncsLockTheMonitor :
    (bench.pin = false ∧ bench.locked = false ∧ { bench with pin := true }.pin = true) ∧
    ((∃ r ∈ some 100, r + 2040 ≤ 2140 ∧ 2140 ≤ r + 2056) ∧ (∃ r ∈ some 100, r + 2040 ≤ 2156 ∧ 2156 ≤ r + 2056) ∧
      (¬ ∃ r ∈ some 100, r + 2040 ≤ 2139 ∧ 2139 ≤ r + 2056) ∧ (¬ ∃ r ∈ some 100, r + 2040 ≤ 2157 ∧ 2157 ≤ r + 2056)) ∧
    (6 < 7 ∧ 7 ≤ 7) := by
  refine ⟨by decide +kernel, ⟨⟨100, by decide⟩, ⟨100, by decide⟩, ?_, ?_⟩, by decide⟩ <;> (rintro ⟨r, hr, h⟩; cases hr; omega)

/-- The state of a LOCKED monitor whose next sync is expected at 2048. -/
def lockedBench : State := { withCall (call .active (some 0)) with locked := true, reference := some 2048 }

theorem witness_LockedMonitorRunsFramesOnTime :
    (lockedBench.pin = false ∧ lockedBench.locked = true ∧ lockedBench.reference = some 2048) ∧ lockedBench.AccountsSound ∧
    (2048 ≤ 2040 + 8 ∧ 2056 ≤ 2048 + 8 ∧ 2039 + 8 < 2048 ∧ 2048 + 8 < 2057) ∧
    (lockedBench.missedRun = 0 ∧ 1 ≤ { lockedBench with missedRun := 1 }.missedRun) := by decide +kernel

theorem witness_ResetDeviceStopsThePart :
    (active.Serves 1 0 ∧ ∃ c, ((active.chan c).state = .active ∨ (active.chan c).state = .handoverPending ∨
      (active.chan c).state = .opening) ∧ ∃ h, (active.chan c).holder = some h ∧ h ≠ 1) ∧
    (active.Serves 0 0 ∧ ¬ ∃ c, ((active.chan c).state = .active ∨ (active.chan c).state = .handoverPending ∨
      (active.chan c).state = .opening) ∧ ∃ h, (active.chan c).holder = some h ∧ h ≠ 0) := by decide +kernel

theorem witness_ClearsAndPowerOnLeaveTheResetValues :
    { active with clear := .device }.clear = .device ∧ { active with clear := .powerOn }.clear = .powerOn ∧
    active.clear ≠ .device ∧ active.clear ≠ .powerOn ∧ { active with pin := true }.pin = true ∧ active.pin = false := by
  decide +kernel

/-- Channel 14 in use, and a NOP from its holder waiting. -/
def waiting : State := { running with pending := [.nop 0 0 1 []] }

theorem witness_EveryStepKeepsPoolAndAccounts :
    ({ echoing with pending := [.jobStart] }.PoolSound ∧ ∃ t, step { echoing with pending := [.jobStart] } = .next t) ∧
    (waiting.AccountsSound ∧ ∃ t, step waiting = .next t) :=
  ⟨⟨by decide +kernel, ⟨_, rfl⟩⟩, ⟨by decide +kernel, ⟨_, rfl⟩⟩⟩

set_option synthInstance.maxHeartbeats 400000 in
set_option synthInstance.maxSize 2000 in
theorem witness_EveryStepKeepsTheChannelRanges : waiting.ChannelsSound ∧ ∃ t, step waiting = .next t :=
  ⟨by decide +kernel, ⟨_, rfl⟩⟩

theorem witness_EveryStepKeepsTheRoles : waiting.RolesSound ∧ ∃ t, step waiting = .next t :=
  ⟨by decide +kernel, ⟨_, rfl⟩⟩

set_option synthInstance.maxHeartbeats 400000 in
set_option synthInstance.maxSize 2000 in
theorem witness_EveryStepKeepsThePorts : waiting.PortsSound ∧ ∃ t, step waiting = .next t :=
  ⟨by decide +kernel, ⟨_, rfl⟩⟩

set_option synthInstance.maxHeartbeats 400000 in
set_option synthInstance.maxSize 2000 in
theorem witness_EveryStepKeepsTheEqualizer : waiting.RolesSound ∧ waiting.EqSound ∧ ∃ t, step waiting = .next t :=
  ⟨by decide +kernel, by decide +kernel, ⟨_, rfl⟩⟩

end Sys2Proof.Tests
end

