-- ==== Sys2Proof/Proofs/ChannelContexts.lean ====
section
/-! SUPPORT. OPEN: the effective sizes it asks for (R6), and the checks that can refuse it (R7). -/

namespace Sys2Proof.Machine

/-! ### Rounding, page counts and effective sizes (R6) -/

/-- Rounding up to a step that divides the cap gives a multiple of the step. -/
theorem dvd_roundUpTo {step cap : Nat} (hcap : step ∣ cap) (n : Nat) : step ∣ roundUpTo step cap n := by
  rcases min_choice cap ((n + (step - 1)) / step * step) with h | h <;> rw [roundUpTo, h]
  · exact hcap
  · exact Nat.dvd_mul_left _ _

/-- The least multiple of a step at or above `n` is less than one step above it. -/
theorem ceil_mul_bounds {step : Nat} (hstep : 0 < step) (n : Nat) :
    n ≤ (n + (step - 1)) / step * step ∧ (n + (step - 1)) / step * step < n + step := by
  have hdiv := Nat.div_add_mod' (n + (step - 1)) step
  have hmod := Nat.mod_lt (n + (step - 1)) hstep
  omega

theorem roundUpTo_bounds {step cap n : Nat} (hstep : 0 < step) (hn : n ≤ cap) :
    n ≤ roundUpTo step cap n ∧ roundUpTo step cap n < n + step := by
  obtain ⟨hle, hlt⟩ := ceil_mul_bounds hstep n
  exact ⟨le_min hn hle, (min_le_right _ _).trans_lt hlt⟩

theorem roundUpTo_of_lt {step cap n : Nat} (hstep : 0 < step) (hn : cap < n) : roundUpTo step cap n = cap :=
  min_eq_left (hn.le.trans (ceil_mul_bounds hstep n).1)

theorem roundUpTo_le (step cap n : Nat) : roundUpTo step cap n ≤ cap := min_le_left _ _

/-- The page count is the least number of 256-sample pages, at least 1, that holds the history need. -/
theorem Sizes.pageCount_bounds (z : Sizes) :
    1 ≤ z.pageCount ∧ max z.nn (z.d + z.nf) ≤ 256 * z.pageCount ∧
      (1 < z.pageCount → 256 * (z.pageCount - 1) < max z.nn (z.d + z.nf)) := by
  simp only [Sizes.pageCount, Config.pageSize]
  omega

/-- A history need within the maximal reach is held by 40 pages. -/
theorem Sizes.pageCount_le {z : Sizes} (h : max z.nn (z.d + z.nf) ≤ Config.maxReach) : z.pageCount ≤ 40 := by
  simp only [Sizes.pageCount, Config.pageSize, Config.maxReach] at *
  omega

/-- The far filter with its bulk delay stays within the maximal reach. -/
theorem effectiveDelay_add_le {nf : Nat} (hnf : nf ≤ Config.maxReach) (d : Nat) :
    effectiveDelay nf d + nf ≤ Config.maxReach := by
  unfold effectiveDelay
  split <;> omega

/-- Effective sizes never need more history than the maximal reach. -/
theorem effectiveSizes_need_le (nn nf d : Nat) :
    max (effectiveSizes nn nf d).nn ((effectiveSizes nn nf d).d + (effectiveSizes nn nf d).nf) ≤ Config.maxReach := by
  have hnn : effectiveNear nn ≤ Config.maxReach := (roundUpTo_le 8 64 nn).trans (by decide)
  have hnf : effectiveFar nf ≤ Config.maxReach := (roundUpTo_le 16 128 nf).trans (by decide)
  exact max_le hnn (effectiveDelay_add_le hnf d)

/-! ### The operands of an OPEN (R6) -/

/-- The byte at the foot of a word. -/
theorem fieldAt_byte (w : Word) : fieldAt w 0 8 = w.toNat % 256 := by simp [fieldAt]

/-- A word past the end of the payload reads 0. -/
theorem CmdMsg.word_absent {m : CmdMsg} {i : Nat} (h : m.payload.length < i) : m.word i = 0 :=
  List.getD_eq_default _ _ (Nat.le_sub_one_of_lt h)

/-- An OPEN without a sizes word takes the default sizes. -/
theorem openSizes_absent {m : CmdMsg} (h : m.payload.length < 2) : openSizes m = { nn := 32, nf := 0, d := 0 } := by
  rw [openSizes, if_pos h]
  decide

/-- The sizes word has the near count in bits 0 to 7, the far count in bits 8 to 15 and the delay above them. -/
theorem openSizes_present {m : CmdMsg} (h : 2 ≤ m.payload.length) :
    openSizes m =
      effectiveSizes ((m.word 2).toNat % 256) ((m.word 2).toNat / 256 % 256) ((m.word 2).toNat / 65536) := by
  have hdelay : (m.word 2).toNat / 65536 % 65536 = (m.word 2).toNat / 65536 := by
    have := (m.word 2).isLt
    omega
  simp [openSizes, Nat.not_lt.mpr h, fieldAt, hdelay]

/-- Settles O9: rounding and page count by their bounds, absent parts by the payload's length. -/
theorem openSizesAreMadeEffective : Obligations.OpenSizesAreMadeEffective := by
  refine ⟨fun nn nf d => ?_, fun c tag w1 w2 w3 => ?_⟩
  · have hnear : 8 ∣ effectiveNear nn := dvd_roundUpTo (by decide) nn
    have hfar : 16 ∣ effectiveFar nf := dvd_roundUpTo (by decide) nf
    obtain ⟨hone, hholds, hleast⟩ := (effectiveSizes nn nf d).pageCount_bounds
    exact
      ⟨⟨Nat.mod_eq_zero_of_dvd hnear, roundUpTo_bounds (by decide), roundUpTo_of_lt (by decide)⟩,
        ⟨Nat.mod_eq_zero_of_dvd hfar, roundUpTo_bounds (by decide), roundUpTo_of_lt (by decide)⟩,
        rfl, rfl, hone, Sizes.pageCount_le (effectiveSizes_need_le nn nf d), hholds, hleast⟩
  · have htwo := openSizes_present (m := .on .openChannel c tag [w1, w2]) (by simp)
    have hthree := openSizes_present (m := .on .openChannel c tag [w1, w2, w3]) (by simp)
    have hline : (CmdMsg.on .openChannel c tag [w1, w2]).word 3 = 0 := CmdMsg.word_absent (by simp)
    refine ⟨openSizes_absent (by simp), htwo, hthree.trans htwo.symm, ?_, ?_, CmdMsg.word_absent (by simp)⟩
    · rw [hline]
      decide
    · rw [hline]
      decide

/-! ### The checks of an OPEN (R7) -/

theorem loopbackOf_loopbackField_eq_none_iff (w : Word) : loopbackOf (loopbackField w) = none ↔ w.toNat % 4 = 3 := by
  have hfield : loopbackField w = w.toNat % 4 := by simp [loopbackField, fieldAt]
  have hlt : w.toNat % 4 < 4 := Nat.mod_lt _ (by decide)
  rw [hfield]
  generalize w.toNat % 4 = n at hlt ⊢
  interval_cases n <;> simp [loopbackOf]

/-- The first check: the channel is not FREE. -/
theorem openRefusal_notFree {s : State} {c : Chan} (h : (s.chan c).state ≠ .free) (m : CmdMsg) :
    openRefusal s c m = some .notFree := if_pos h

/-- The second check: a slot field past 63, or a loopback field that names no mode. -/
theorem openRefusal_badValue {s : State} {c : Chan} {m : CmdMsg} (hfree : (s.chan c).state = .free)
    (h : 63 < (m.word 1).toNat % 256 ∨ (m.word 3).toNat % 4 = 3) : openRefusal s c m = some .badValue := by
  rw [openRefusal, if_neg (not_not.mpr hfree)]
  rcases h with hslot | hloop
  · rw [dif_neg (by rw [fieldAt_byte]; omega)]
  · rw [(loopbackOf_loopbackField_eq_none_iff _).mpr hloop]
    split <;> simp_all

/-- The later checks, of a FREE channel and legal operands: the slot, the echo budget, the free pages. -/
theorem openRefusal_resources {s : State} {c : Chan} {m : CmdMsg} (hfree : (s.chan c).state = .free)
    (hslot : (m.word 1).toNat % 256 < 64) (hloop : (m.word 3).toNat % 4 ≠ 3) :
    openRefusal s c m =
      if (s.slotMap.toList.getD ((m.word 1).toNat % 256) none).isSome = true then some .slotTaken
      else if 6144 < s.echoUsed + (openSizes m).cost then some .noBudget
      else if s.freeList.length < (openSizes m).pageCount then some .noHistory
      else none := by
  obtain ⟨lb, hlb⟩ := Option.ne_none_iff_exists'.mp (mt (loopbackOf_loopbackField_eq_none_iff (m.word 3)).mp hloop)
  simp [openRefusal, hfree, hlb, fieldAt_byte, hslot, Config.echoBudget]

/-- The checks of R7 in their order, on the fields of the payload. -/
theorem openRefusal_eq (s : State) (c : Chan) (m : CmdMsg) :
    openRefusal s c m =
      if (s.chan c).state ≠ .free then some .notFree
      else if 63 < (m.word 1).toNat % 256 ∨ (m.word 3).toNat % 4 = 3 then some .badValue
      else if (s.slotMap.toList.getD ((m.word 1).toNat % 256) none).isSome = true then some .slotTaken
      else if 6144 < s.echoUsed + (openSizes m).cost then some .noBudget
      else if s.freeList.length < (openSizes m).pageCount then some .noHistory
      else none := by
  by_cases hfree : (s.chan c).state = .free
  · rw [if_neg (not_not.mpr hfree)]
    by_cases hbad : 63 < (m.word 1).toNat % 256 ∨ (m.word 3).toNat % 4 = 3
    · rw [if_pos hbad, openRefusal_badValue hfree hbad]
    · obtain ⟨hslot, hloop⟩ := not_or.mp hbad
      rw [if_neg hbad, openRefusal_resources hfree (by omega) hloop]
  · rw [if_pos hfree, openRefusal_notFree hfree]

/-- The arrival of a command changes nothing that the checks of an OPEN read. -/
@[simp] theorem openRefusal_received (s : State) (l : Link) (k : Fin 4) (m m' : CmdMsg) (c : Chan) :
    openRefusal (s.received l k m') c m = openRefusal s c m := rfl

/-- A refused OPEN is answered with its code and leaves the rest of the state. -/
theorem takeOpen_refused {s : State} {c : Chan} {tag : Tag} {ws : List Word} {code : Code}
    (h : openRefusal s c (.on .openChannel c tag ws) = some code) (l : Link) (k : Fin 4) :
    takeOpen l k (.on .openChannel c tag ws) s = (s, .done code []) := by
  simp [takeOpen, h, refuse]

/-- Settles O10: the arrival takes the OPEN, the chain of checks names its refusal, and a refusal only replies. -/
theorem openIsRefusedByTheFirstFailingCheck : Obligations.OpenIsRefusedByTheFirstFailingCheck := by
  intro l k c tag p s code m slot z hserves hchecks
  have hrefused : openRefusal (s.received l k m) c m = some code := by
    rw [openRefusal_received, openRefusal_eq]
    exact hchecks
  rw [exec_command (m := m) rfl]
  exact congrArg _ (State.arrive_done (f := id) hserves (takeOpen_refused hrefused l k) rfl rfl)

end Sys2Proof.Machine
end

/-! SUPPORT. The slicer of the equalizer (R102): the constellation levels of one axis, the cell of values that each
level is decided for, and why the level of a value's cell is the nearest one. -/

namespace Sys2Proof.Machine

/-! ### The constellation levels of one axis -/

/-- Level `i` of one axis: the odd multiples of A from −(L − 1) A upward, in steps of 2A. -/
def axisLevel (lv a i : Nat) : Int := (2 * i - (lv - 1 : Nat)) * a

theorem axisLevel_zero (lv a : Nat) : axisLevel lv a 0 = -((lv - 1 : Nat) * a : Int) := by
  simp [axisLevel]

theorem axisLevel_last (lv a : Nat) : axisLevel lv a (lv - 1) = (lv - 1 : Nat) * a := by
  rw [axisLevel]; ring

theorem axisLevel_succ (lv a i : Nat) : axisLevel lv a (i + 1) = axisLevel lv a i + 2 * a := by
  rw [axisLevel, axisLevel]; push_cast; ring

/-- Two different levels are at least 2A apart. -/
theorem axisLevel_add_le {i j : Nat} (lv a : Nat) (hij : i < j) : axisLevel lv a i + 2 * a ≤ axisLevel lv a j := by
  have hmono : Monotone (axisLevel lv a) := monotone_nat_of_le_succ fun k => by rw [axisLevel_succ]; omega
  rw [← axisLevel_succ]
  exact hmono hij

theorem axisLevel_ediv {a : Nat} (ha : 1 ≤ a) (lv i : Nat) : axisLevel lv a i / a = 2 * i - (lv - 1 : Nat) :=
  Int.mul_ediv_cancel _ (by omega)

/-- The decision index of a level is its place in the constellation. -/
theorem levelIndex_axisLevel {a : Nat} (ha : 1 ≤ a) (lv i : Nat) : levelIndex lv a (axisLevel lv a i) = i := by
  rw [levelIndex, axisLevel_ediv ha]; omega

/-! ### The decided level -/

theorem saturate_eq_max_min {lo hi : Int} (h : lo ≤ hi) (x : Int) : saturate lo hi x = max lo (min hi x) := by
  unfold saturate
  split_ifs <;> omega

theorem sliceLevel_eq_max_min (lv a : Nat) (z : Int) :
    sliceLevel lv a z =
      max (-((lv - 1 : Nat) * a : Int)) (min ((lv - 1 : Nat) * a) ((2 * (z / (2 * a)) + 1) * a)) :=
  saturate_eq_max_min (neg_le_self (by positivity)) _

/-- `z` is in the cell of level `i`: from A below the level, included, to A above it, excluded. The lowest cell has no
lower bound and the highest no upper bound. -/
def InCell (lv a : Nat) (z : Int) (i : Nat) : Prop :=
  (0 < i → axisLevel lv a i - a ≤ z) ∧ (i + 1 < lv → z < axisLevel lv a i + a)

/-- Before the clamp, the odd multiple of A that the slicer forms is at most A above `z` and less than A below it. -/
theorem oddMultiple_bounds {a : Nat} (ha : 1 ≤ a) (z : Int) :
    (2 * (z / (2 * a)) + 1) * a - a ≤ z ∧ z < (2 * (z / (2 * a)) + 1) * a + a := by
  have hdiv := Int.mul_ediv_add_emod z (2 * a)
  have hnonneg := Int.emod_nonneg z (b := 2 * a) (by omega)
  have hlt := Int.emod_lt_of_pos z (b := 2 * a) (by omega)
  have hodd : (2 * (z / (2 * a)) + 1) * (a : Int) = 2 * a * (z / (2 * a)) + a := by ring
  omega

/-- An odd multiple of A between the outermost levels is a level. -/
theorem exists_axisLevel_of_oddMultiple {lv a : Nat} {k : Int} (hlv : 0 < lv) (heven : 2 ∣ lv) (ha : 1 ≤ a)
    (hlow : -((lv - 1 : Nat) * a : Int) ≤ (2 * k + 1) * a) (hhigh : (2 * k + 1) * a ≤ ((lv - 1 : Nat) * a : Int)) :
    ∃ i < lv, (2 * k + 1) * a = axisLevel lv a i := by
  have hpos : (0 : Int) < a := by omega
  have hk_low : -((lv - 1 : Nat) : Int) ≤ 2 * k + 1 := le_of_mul_le_mul_right (by rwa [neg_mul]) hpos
  have hk_high : 2 * k + 1 ≤ ((lv - 1 : Nat) : Int) := le_of_mul_le_mul_right hhigh hpos
  refine ⟨(k + (lv / 2 : Nat)).toNat, by omega, ?_⟩
  rw [axisLevel]
  congr 1
  omega

/-- The slicer decides for a level in whose cell `z` is. -/
theorem sliceLevel_inCell {lv a : Nat} (hlv : 0 < lv) (heven : 2 ∣ lv) (ha : 1 ≤ a) (z : Int) :
    ∃ i < lv, sliceLevel lv a z = axisLevel lv a i ∧ InCell lv a z i := by
  obtain ⟨hbelow, habove⟩ := oddMultiple_bounds ha z
  unfold sliceLevel saturate
  split_ifs with hlow hhigh
  · refine ⟨0, hlv, (axisLevel_zero lv a).symm, by simp, fun _ => ?_⟩
    rw [axisLevel_zero]; omega
  · refine ⟨lv - 1, by omega, (axisLevel_last lv a).symm, fun _ => ?_, by omega⟩
    rw [axisLevel_last]; omega
  · obtain ⟨i, hi, heq⟩ := exists_axisLevel_of_oddMultiple hlv heven ha (not_lt.mp hlow) (not_lt.mp hhigh)
    rw [heq] at hbelow habove
    exact ⟨i, hi, heq, fun _ => hbelow, fun _ => habove⟩

/-- The level of the cell of `z` is the nearest one, and the upper of two equally near ones: a lower level is at
least as far, a higher one farther. -/
theorem InCell.nearest {lv a i j : Nat} {z : Int} (h : InCell lv a z i) (ha : 1 ≤ a) (hi : i < lv) (hj : j < lv) :
    |z - axisLevel lv a i| ≤ |z - axisLevel lv a j| ∧
      (|z - axisLevel lv a i| = |z - axisLevel lv a j| → axisLevel lv a j ≤ axisLevel lv a i) := by
  obtain ⟨hlower, hupper⟩ := h
  rcases lt_trichotomy j i with hji | rfl | hij
  · have hz := hlower (by omega)
    have hgap := axisLevel_add_le lv a hji
    have hnear : |z - axisLevel lv a i| ≤ z - axisLevel lv a j := abs_le.mpr ⟨by omega, by omega⟩
    exact ⟨hnear.trans (le_abs_self _), fun _ => by omega⟩
  · exact ⟨le_rfl, fun _ => le_rfl⟩
  · have hz := hupper (by omega)
    have hgap := axisLevel_add_le lv a hij
    have hnear : |z - axisLevel lv a i| < -(z - axisLevel lv a j) := abs_lt.mpr ⟨by omega, by omega⟩
    have hfar := hnear.trans_le (neg_le_abs _)
    exact ⟨hfar.le, fun htie => absurd htie hfar.ne⟩

/-- Settles O29: the slicer decides for the level of the cell that holds `z`, whose index is exact, and no level is
nearer than that of its cell. -/
theorem slicerDecidesTheNearestLevel : Obligations.SlicerDecidesTheNearestLevel := by
  refine ⟨fun lv hmem a z ha => ?_, fun q => ⟨rfl, rfl, rfl⟩⟩
  obtain ⟨hlv, heven⟩ : 0 < lv ∧ 2 ∣ lv := by
    simp only [List.mem_cons, List.not_mem_nil, or_false] at hmem
    omega
  obtain ⟨i, hi, hd, hcell⟩ := sliceLevel_inCell hlv heven ha z
  refine ⟨sliceLevel_eq_max_min lv a z, ?_⟩
  rw [hd, levelIndex_axisLevel ha, axisLevel_ediv ha]
  exact ⟨hi, by omega, rfl, fun j hj => hcell.nearest ha hi hj⟩

end Sys2Proof.Machine

/-! SUPPORT. What every step keeps, said once for all the invariants: the relation `State.Keeps` between a state and a
later one, which composes, and the two relations that most steps are made of: traffic on a link port, and a change of a
channel record that leaves its accounts alone. -/

namespace Sys2Proof.Machine

/-! ### Traffic on a port -/

/-- A later state of a link port: its limits are kept, it has not gone DOWN, no job has entered QUEUED, and the RUNNING
jobs are the same. -/
structure LinkPort.Traffic (p q : LinkPort) : Prop where
  sound : p.Sound → q.Sound
  down : q.state = .down → p.state = .down
  queued : ∀ j ∈ q.jobs, j.state = .queued → j ∈ p.jobs
  running : p.Sound → ∀ j : Job, j.state = .running → (j ∈ q.jobs ↔ j ∈ p.jobs)
  empty : p.jobs = [] → q.jobs = []

theorem LinkPort.Traffic.refl (p : LinkPort) : p.Traffic p :=
  ⟨id, id, fun _ h _ => h, fun _ _ _ => .rfl, id⟩

theorem LinkPort.Traffic.trans {p q r : LinkPort} (h : p.Traffic q) (k : q.Traffic r) : p.Traffic r where
  sound hp := k.sound (h.sound hp)
  down hd := h.down (k.down hd)
  queued j hj hs := h.queued j (k.queued j hj hs) hs
  running hp j hj := (k.running (h.sound hp) j hj).trans (h.running hp j hj)
  empty he := k.empty (h.empty he)

/-- Traffic that leaves the jobs alone. -/
theorem LinkPort.Traffic.of_jobs {p q : LinkPort} (hs : p.Sound → q.Sound) (hd : q.state = .down → p.state = .down)
    (hj : q.jobs = p.jobs) : p.Traffic q :=
  ⟨hs, hd, fun j h _ => hj ▸ h, fun _ j _ => by rw [hj], fun h => hj.trans h⟩

/-! ### Changes of a channel record -/

/-- A later record of a channel, while the links of `down` are DOWN: it stays FREE or OPENING if it was and has not
become so, and its ranges, its roles and its EQ context stay sound. -/
structure Channel.Move (down : Link → Bool) (a b : Channel) : Prop where
  isFree : b.state = .free ↔ a.state = .free
  isOpening : b.state = .opening ↔ a.state = .opening
  sound : a.Sound → b.Sound
  roles : a.RolesSound down → b.RolesSound down
  free : a = Channel.free → b = Channel.free
  eqTaps : b.eqTaps = a.eqTaps
  eqSome : b.eq.isSome = a.eq.isSome
  eqSound : (∀ q, a.eq = some q → q.Sound) → ∀ q, b.eq = some q → q.Sound

/-- A later record of a channel that has the same of the shared resources. -/
structure Channel.Change (down : Link → Bool) (a b : Channel) : Prop extends a.Move down b where
  account : b.slot = a.slot ∧ b.charge = a.charge ∧ b.pages = a.pages ∧ b.nn = a.nn ∧ b.nf = a.nf ∧
    b.retune.map Retune.nf = a.retune.map Retune.nf

theorem Channel.Move.refl (down : Link → Bool) (a : Channel) : a.Move down a := ⟨.rfl, .rfl, id, id, id, rfl, rfl, id⟩

theorem Channel.Change.refl (down : Link → Bool) (a : Channel) : a.Change down a :=
  ⟨.refl down a, rfl, rfl, rfl, rfl, rfl, rfl⟩

theorem Channel.Move.trans {down : Link → Bool} {a b c : Channel} (h : a.Move down b) (k : b.Move down c) :
    a.Move down c where
  isFree := k.isFree.trans h.isFree
  isOpening := k.isOpening.trans h.isOpening
  sound hs := k.sound (h.sound hs)
  roles hs := k.roles (h.roles hs)
  free hs := k.free (h.free hs)
  eqTaps := k.eqTaps.trans h.eqTaps
  eqSome := k.eqSome.trans h.eqSome
  eqSound hs := k.eqSound (h.eqSound hs)

/-- A move of a running channel's record that keeps its lifecycle state and its EQ context. -/
theorem Channel.Move.of_runs {down : Link → Bool} {a b : Channel} (hl : b.state = a.state) (hr : a.state.runs = true)
    (hs : a.Sound → b.Sound) (hroles : a.RolesSound down → b.RolesSound down) (heq : b.eq = a.eq) : a.Move down b where
  isFree := by rw [hl]
  isOpening := by rw [hl]
  sound := hs
  roles := hroles
  free ha := by rw [ha] at hr; cases hr
  eqTaps := by rw [Channel.eqTaps, heq, Channel.eqTaps]
  eqSome := by rw [heq]
  eqSound hq := by rw [heq]; exact hq

theorem Channel.Change.trans {down : Link → Bool} {a b c : Channel} (h : a.Change down b) (k : b.Change down c) :
    a.Change down c where
  toMove := h.toMove.trans k.toMove
  account := by
    obtain ⟨h1, h2, h3, h4, h5, h6⟩ := h.account
    obtain ⟨k1, k2, k3, k4, k5, k6⟩ := k.account
    exact ⟨k1.trans h1, k2.trans h2, k3.trans h3, k4.trans h4, k5.trans h5, k6.trans h6⟩

/-- The fields of a record that the accounts and the roles read. -/
structure Channel.SameService (a b : Channel) : Prop where
  state : b.state = a.state
  holder : b.holder = a.holder
  copy : b.copy = a.copy
  saved : b.saved = a.saved
  offer : b.offer = a.offer
  slot : b.slot = a.slot
  nn : b.nn = a.nn
  nf : b.nf = a.nf
  retune : b.retune = a.retune
  charge : b.charge = a.charge
  pages : b.pages = a.pages
  rxq : b.rxq = a.rxq

theorem Channel.SameService.roles {a b : Channel} (h : a.SameService b) {down : Link → Bool} (hr : a.RolesSound down) :
    b.RolesSound down := by
  unfold Channel.RolesSound at *
  rw [h.state, h.holder, h.copy, h.saved, h.offer, h.retune, h.rxq]
  exact hr

/-- A change of a running channel's record that leaves alone what its accounts and roles read, and its EQ context. -/
theorem Channel.Change.of_service {a b : Channel} (h : a.SameService b) (hr : a.state.runs = true)
    (hs : a.Sound → b.Sound) (heq : b.eq = a.eq) (down : Link → Bool) : a.Change down b where
  toMove := .of_runs h.state hr hs h.roles heq
  account := ⟨h.slot, h.charge, h.pages, h.nn, h.nf, by rw [h.retune]⟩

/-- A change of a running channel's record that leaves alone what its accounts and roles read, and replaces its EQ
context by one of as many taps. -/
theorem Channel.Change.of_eq {a b : Channel} (h : a.SameService b) (hr : a.state.runs = true)
    (hs : a.Sound → b.Sound) {f : EqCtx → EqCtx} (heq : b.eq = a.eq.map f) (hne : ∀ q, (f q).ne = q.ne)
    (hq : ∀ q : EqCtx, q.Sound → (f q).Sound) (down : Link → Bool) : a.Change down b where
  account := ⟨h.slot, h.charge, h.pages, h.nn, h.nf, by rw [h.retune]⟩
  isFree := by rw [h.state]
  isOpening := by rw [h.state]
  sound := hs
  roles := h.roles
  free ha := by rw [ha] at hr; cases hr
  eqTaps := by
    unfold Channel.eqTaps
    rw [heq]
    cases a.eq with
    | none => rfl
    | some q => exact hne q
  eqSome := by rw [heq, Option.isSome_map]
  eqSound ha q hb := by
    rw [heq] at hb
    obtain ⟨q', hq', rfl⟩ := Option.map_eq_some_iff.mp hb
    exact hq q' (ha q' hq')

/-! ### What every step keeps -/

/-- A later state in which the queue is the same and every invariant still holds. -/
structure State.Keeps (s t : State) : Prop where
  pending : t.pending = s.pending
  pool : s.PoolSound → t.PoolSound
  accounts : s.AccountsSound → t.AccountsSound
  channels : s.ChannelsSound → t.ChannelsSound
  roles : s.RolesSound → t.RolesSound
  ports : s.PortsSound → t.PortsSound
  eq : s.RolesSound → s.EqSound → t.EqSound

theorem State.Keeps.refl (s : State) : s.Keeps s := ⟨rfl, id, id, id, id, id, fun _ => id⟩

theorem State.Keeps.trans {s t u : State} (h : s.Keeps t) (k : t.Keeps u) : s.Keeps u where
  pending := k.pending.trans h.pending
  pool hs := k.pool (h.pool hs)
  accounts hs := k.accounts (h.accounts hs)
  channels hs := k.channels (h.channels hs)
  roles hs := k.roles (h.roles hs)
  ports hs := k.ports (h.ports hs)
  eq hr hs := k.eq (h.roles hr) (h.eq hr hs)

/-- A list of operations, each of which keeps the invariants, keeps them. -/
theorem State.Keeps.foldl {α : Type} {f : State → α → State} (h : ∀ (s : State) (x : α), s.Keeps (f s x)) (xs :
    List α) (s : State) :
    s.Keeps (xs.foldl f s) := by
  induction xs generalizing s with
  | nil => exact .refl s
  | cons x xs ih => exact (h s x).trans (ih (f s x))

/-- Roles that are sound stay so when links come up. -/
theorem Channel.RolesSound.of_down {ch : Channel} {down down' : Link → Bool} (h : ch.RolesSound down)
    (hd : ∀ l, down l = false → down' l = false) : ch.RolesSound down' := by
  obtain ⟨h1, h2, h3, h4, h5, h6, h7, h8, h9, h10, h11⟩ := h
  exact ⟨h1, h2, fun l hl => ⟨hd l (h3 l hl).1, (h3 l hl).2⟩, fun l hl => hd l (h4 l hl), fun l hl => hd l (h5 l hl),
    h6, h7, h8, fun r hr l hl => hd l (h9 r hr l hl), h10, h11⟩

/-- What a running job of the engine is to the invariants: its link, slot and channel, and whether it is marked. -/
def RunJob.seat (e : RunJob) : Link × Option (Fin 4) × Chan × Bool := (e.link, e.place, e.chan, e.closed)

/-- A later state of the parts that hold no records and no accounts: traffic on the ports, and the same engine. -/
structure State.SameLinks (s t : State) : Prop where
  pending : t.pending = s.pending
  pool : s.PoolSound → t.PoolSound
  eqUsed : t.eqUsed = s.eqUsed
  engine : t.engine.map RunJob.seat = s.engine.map RunJob.seat
  clear : t.clear = s.clear
  ports : ∀ l, (s.port l).Traffic (t.port l)

/-- A later state of the parts that hold no records: besides, the same resources in use. -/
structure State.SameParts (s t : State) : Prop extends s.SameLinks t where
  slotMap : t.slotMap = s.slotMap
  echoUsed : t.echoUsed = s.echoUsed
  freeList : t.freeList = s.freeList

theorem Channel.Change.owed {down : Link → Bool} {a b : Channel} (h : a.Change down b) : b.owed = a.owed := by
  obtain ⟨-, -, -, hnn, hnf, hr⟩ := h.account
  unfold Channel.owed Channel.chargeFor
  rw [hnn, hnf]
  cases ha : a.retune <;> cases hb : b.retune <;> simp_all

theorem Channel.Change.retune_none {down : Link → Bool} {a b : Channel} (h : a.Change down b) (ha : a.retune = none) :
    b.retune = none := by
  obtain ⟨-, -, -, -, -, hr⟩ := h.account
  rw [ha] at hr
  exact Option.map_eq_none_iff.mp hr

/-- Records that change without their accounts leave the resources accounted for. -/
theorem State.AccountsSound.of_change {s t : State} (hs : s.AccountsSound) {down : Link → Bool}
    (hc : ∀ c, (s.chan c).Change down (t.chan c)) (hm : t.slotMap = s.slotMap) (hu : t.echoUsed = s.echoUsed)
    (hf : t.freeList = s.freeList) : t.AccountsSound := by
  obtain ⟨h1, h2, h3, h4, h5, h6, h7, h8⟩ := hs
  have hpages : ∀ c, (t.chan c).pages = (s.chan c).pages := fun c => (hc c).account.2.2.1
  have hcharge : ∀ c, (t.chan c).charge = (s.chan c).charge := fun c => (hc c).account.2.1
  have hslot : ∀ c, (t.chan c).slot = (s.chan c).slot := fun c => (hc c).account.1
  refine ⟨fun c hfree => ?_, fun c ho => ?_, fun c hn => ?_, fun k c => ?_, ?_, ?_, ?_, ?_⟩
  · obtain ⟨hp, hch, hsl, hr⟩ := h1 c ((hc c).isFree.mp hfree)
    exact ⟨(hpages c).trans hp, (hcharge c).trans hch, (hslot c).trans hsl, (hc c).retune_none hr⟩
  · exact (hc c).retune_none (h2 c ((hc c).isOpening.mp ho))
  · rw [hslot, hcharge, (hc c).owed]
    exact h3 c fun hfree => hn ((hc c).isFree.mpr hfree)
  · rw [hm, hslot]; exact h4 k c
  · simpa only [hpages, hf] using h5
  · simpa only [hpages, hf] using h6
  · simpa only [hcharge, hu] using h7
  · rw [hu]; exact h8

theorem Life.runs_iff (x : Life) : x.runs = true ↔ x ≠ .free ∧ x ≠ .opening := by cases x <;> simp [Life.runs]

theorem Life.runs_of_held {ch : Channel} {l : Link} (h : ch.HeldBy l) : ch.state.runs = true := by
  obtain ⟨h | h, -⟩ := h <;> rw [h] <;> rfl

/-- Ports that keep their limits and their RUNNING jobs stay sound, where the engine's job keeps its slot. -/
theorem State.PortsSound.of_running {s t : State} (hsound : ∀ l, (s.port l).Sound → (t.port l).Sound)
    (hrunning : ∀ l, (s.port l).Sound → ∀ j : Job, j.state = .running → (j ∈ (t.port l).jobs ↔ j ∈ (s.port l).jobs))
    (hquiet : s.ResetQuiet → t.ResetQuiet)
    (hseat : t.engine.map (fun e => (e.link, e.place)) = s.engine.map (fun e => (e.link, e.place)))
    (hs : s.PortsSound) : t.PortsSound := by
  obtain ⟨hp, hq, hrun, heng⟩ := hs
  refine ⟨fun l => hsound l (hp l), hquiet hq, fun l j hj hs' => ?_, fun e he k hk => ?_⟩
  · rw [hseat]
    exact hrun l j ((hrunning l (hp l) j hs').mp hj) hs'
  · rw [he] at hseat
    cases hse : s.engine with
    | none => rw [hse] at hseat; cases hseat
    | some e' =>
      rw [hse] at hseat
      simp only [Option.map_some, Option.some.injEq, Prod.mk.injEq] at hseat
      obtain ⟨j, hj, hjk, hjs⟩ := heng e' hse k (hseat.2 ▸ hk)
      rw [hseat.1]
      exact ⟨j, (hrunning _ (hp _) j hjs).mpr hj, hjk, hjs⟩

/-- A part that holds no engine job and no jobs stays so while the jobs stay and the engine's slots stay. -/
theorem State.ResetQuiet.of_seats {s t : State} (hempty : ∀ l, (s.port l).jobs = [] → (t.port l).jobs = [])
    (hseat : t.engine.map (fun e => (e.link, e.place)) = s.engine.map (fun e => (e.link, e.place)))
    (hclear : t.clear = s.clear) (hq : s.ResetQuiet) : t.ResetQuiet := fun hc => by
  obtain ⟨he, hj⟩ := hq (hclear ▸ hc)
  rw [he] at hseat
  exact ⟨Option.map_eq_none_iff.mp hseat, fun l => hempty l (hj l)⟩

/-- Traffic on the ports keeps them within their limits, where the engine's job keeps its slot. -/
theorem State.PortsSound.of_seats {s t : State} (hports : ∀ l, (s.port l).Traffic (t.port l))
    (hseat : t.engine.map (fun e => (e.link, e.place)) = s.engine.map (fun e => (e.link, e.place)))
    (hclear : t.clear = s.clear) (hs : s.PortsSound) : t.PortsSound :=
  hs.of_running (fun l => (hports l).sound) (fun l => (hports l).running)
    (.of_seats (fun l => (hports l).empty) hseat hclear) hseat

theorem State.SameLinks.seats {s t : State} (h : s.SameLinks t) :
    t.engine.map (fun e => (e.link, e.place)) = s.engine.map (fun e => (e.link, e.place)) := by
  have := congrArg (Option.map fun x : Link × Option (Fin 4) × Chan × Bool => (x.1, x.2.1)) h.engine
  simpa [Option.map_map, Function.comp_def, RunJob.seat] using this

/-- Records that change in these ways keep the equalizer service sound, where each QUEUED job is from the holder of a
channel with a context and a running job not marked CLOSED was running before. -/
theorem State.EqSound.of_moves {s t : State} {down : Link → Bool} (hused : t.eqUsed = s.eqUsed)
    (hc : ∀ c, (s.chan c).Move down (t.chan c)) (hquiet : s.ResetQuiet → t.ResetQuiet)
    (hengine : ∀ e, t.engine = some e → e.closed = false →
      (s.chan e.chan).state.runs = true ∧ (s.chan e.chan).eq.isSome = true)
    (hqueued : ∀ l, ∀ j ∈ (t.port l).jobs, j.state = .queued →
      ∃ c, chanOf j.chan = some c ∧ (t.chan c).HeldBy l ∧ (s.chan c).eq.isSome = true)
    (hs : s.EqSound) : t.EqSound := by
  obtain ⟨h1, h2, h3, h4, h5, h6, h7, h8⟩ := hs
  refine ⟨fun c hf => ?_, fun c ho => ?_, fun c => (hc c).eqSound (h3 c), ?_, ?_, fun l j hj hq => ?_,
    fun e he hcl => ?_, hquiet h8⟩
  · exact (hc c).free (h1 c ((hc c).isFree.mp hf))
  · have := h2 c ((hc c).isOpening.mp ho)
    rw [← Option.not_isSome_iff_eq_none, (hc c).eqSome, this]
    simp
  · rw [hused, h4]
    simp only [fun c => (hc c).eqTaps]
  · rw [hused]; exact h5
  · obtain ⟨c, hjc, hh, hsome⟩ := hqueued l j hj hq
    exact ⟨c, hjc, hh, by rw [(hc c).eqSome]; exact hsome⟩
  · obtain ⟨hr, hsome⟩ := hengine e he hcl
    rw [(hc _).eqSome]
    refine ⟨?_, hsome⟩
    rw [Life.runs_iff] at hr ⊢
    exact ⟨mt (hc _).isFree.mp hr.1, mt (hc _).isOpening.mp hr.2⟩

/-- While the engine keeps its job, a running job not marked CLOSED still has its context. -/
theorem State.EqSound.engine_of_seat {s t : State} (h : t.engine.map RunJob.seat = s.engine.map RunJob.seat)
    (hs : s.EqSound) (e : RunJob) (he : t.engine = some e) (hcl : e.closed = false) :
    (s.chan e.chan).state.runs = true ∧ (s.chan e.chan).eq.isSome = true := by
  obtain ⟨-, -, -, -, -, -, h7, -⟩ := hs
  rw [he] at h
  cases hse : s.engine with
  | none => rw [hse] at h; cases h
  | some e' =>
    rw [hse] at h
    simp only [Option.map_some, Option.some.injEq, RunJob.seat, Prod.mk.injEq] at h
    obtain ⟨-, -, hch, hcl'⟩ := h
    rw [hch]
    exact h7 e' hse (hcl' ▸ hcl)

/-- Traffic that keeps the holders of the channels of QUEUED jobs keeps the equalizer service sound. -/
theorem State.EqSound.of_links {s t : State} (h : s.SameLinks t) {down : Link → Bool}
    (hc : ∀ c, (s.chan c).Move down (t.chan c))
    (hheld : ∀ l c, (∃ j ∈ (t.port l).jobs, j.state = .queued ∧ chanOf j.chan = some c) → (s.chan c).HeldBy l →
      (t.chan c).HeldBy l) (hs : s.EqSound) : t.EqSound := by
  refine hs.of_moves h.eqUsed hc (.of_seats (fun l => (h.ports l).empty) h.seats h.clear)
    (fun e he hcl => hs.engine_of_seat h.engine e he hcl) fun l j hj hq => ?_
  obtain ⟨-, -, -, -, -, h6, -⟩ := hs
  obtain ⟨c, hjc, hh, hsome⟩ := h6 l j ((h.ports l).queued j hj hq) hq
  exact ⟨c, hjc, hheld l c ⟨j, hj, hq, hjc⟩ hh, hsome⟩

/-- Traffic on the ports with moves of the records keeps every invariant, where the resources stay accounted for. -/
theorem State.Keeps.of_moves {s t : State} (h : s.SameLinks t) (hacc : s.AccountsSound → t.AccountsSound)
    (hc : ∀ c, (s.chan c).Move s.isDown (t.chan c))
    (hheld : ∀ l c, (∃ j ∈ (t.port l).jobs, j.state = .queued ∧ chanOf j.chan = some c) → (s.chan c).HeldBy l →
      (t.chan c).HeldBy l) : s.Keeps t where
  pending := h.pending
  pool := h.pool
  accounts := hacc
  channels hs c := (hc c).sound (hs c)
  roles hs c := ((hc c).roles (hs c)).of_down fun l hl => by
    simp only [State.isDown, beq_eq_false_iff_ne, ne_eq] at hl ⊢
    exact mt (h.ports l).down hl
  ports hs := hs.of_seats h.ports h.seats h.clear
  eq _ hs := hs.of_links h hc hheld

/-- Traffic on the ports with changes of the records keeps every invariant. -/
theorem State.Keeps.of_parts {s t : State} (h : s.SameParts t) (hc : ∀ c, (s.chan c).Change s.isDown (t.chan c))
    (hheld : ∀ l c, (∃ j ∈ (t.port l).jobs, j.state = .queued ∧ chanOf j.chan = some c) → (s.chan c).HeldBy l →
      (t.chan c).HeldBy l) : s.Keeps t :=
  .of_moves h.toSameLinks (fun hs => hs.of_change hc h.slotMap h.echoUsed h.freeList) (fun c => (hc c).toMove) hheld

/-- Traffic on the ports alone keeps every invariant. -/
theorem State.Keeps.of_traffic {s t : State} (h : s.SameParts t) (hc : t.channels = s.channels) : s.Keeps t := by
  have hch : ∀ c, t.chan c = s.chan c := fun c => by rw [State.chan, hc, State.chan]
  exact .of_parts h (fun c => by rw [hch]; exact .refl _ _) fun l c _ hl => by rw [hch]; exact hl

/-- A change of one record keeps every invariant. -/
theorem State.Keeps.setChan {s : State} {c : Chan} {x : Channel} (h : (s.chan c).Change s.isDown x)
    (hheld : ∀ l, (∃ j ∈ (s.port l).jobs, j.state = .queued ∧ chanOf j.chan = some c) → (s.chan c).HeldBy l →
      x.HeldBy l) : s.Keeps (s.setChan c x) := by
  refine .of_parts ⟨⟨rfl, id, rfl, rfl, rfl, fun _ => .refl _⟩, rfl, rfl, rfl⟩ (fun c' => ?_) fun l c' hj hh => ?_
  · rw [State.chan_setChan_ite]
    split
    · rename_i hc; rw [hc]; exact h
    · exact .refl _ _
  · rw [State.chan_setChan_ite]
    split
    · rename_i hc; subst hc; exact hheld l hj hh
    · exact hh

/-- Traffic on one port keeps every invariant. -/
theorem State.Keeps.setPort {s : State} {l : Link} {p : LinkPort} (h : (s.port l).Traffic p) :
    s.Keeps (s.setPort l p) := by
  refine .of_traffic ⟨⟨rfl, id, rfl, rfl, rfl, fun l' => ?_⟩, rfl, rfl, rfl⟩ rfl
  rw [State.port_setPort_ite]
  split
  · rename_i hl; rw [hl]; exact h
  · exact .refl _

theorem State.Keeps.updPort {s : State} {l : Link} {f : LinkPort → LinkPort} (h : (s.port l).Traffic (f (s.port l))) :
    s.Keeps (s.updPort l f) := .setPort h

theorem State.Keeps.updPorts {s : State} {f : LinkPort → LinkPort} (h : ∀ l, (s.port l).Traffic (f (s.port l))) :
    s.Keeps (s.updPorts f) := by
  refine .of_traffic ⟨⟨rfl, id, rfl, rfl, rfl, fun l => ?_⟩, rfl, rfl, rfl⟩ rfl
  rw [State.port_updPorts]
  exact h l

/-- A change of one record that keeps its holder keeps every invariant. -/
theorem State.Keeps.updChan {s : State} {c : Chan} {f : Channel → Channel}
    (h : (s.chan c).Change s.isDown (f (s.chan c))) (hh : ∀ l, (s.chan c).HeldBy l → (f (s.chan c)).HeldBy l) :
    s.Keeps (s.updChan c f) := .setChan h fun l _ => hh l

/-- What no invariant reads may change freely. -/
theorem State.Keeps.of_eq {s t : State}
    (h : { s with held := t.held, locked := t.locked, goodRun := t.goodRun, missedRun := t.missedRun
                  reference := t.reference, outbound := t.outbound, pin := t.pin, freeCount := t.freeCount
                  eqLast := t.eqLast } = t) : s.Keeps t := by
  rw [← h]
  exact .of_traffic ⟨⟨rfl, id, rfl, rfl, rfl, fun _ => .refl _⟩, rfl, rfl, rfl⟩ rfl

end Sys2Proof.Machine

/-! SUPPORT. Traffic on a link port, operation by operation: notices, answers, arrivals, watches, results of jobs, and
what the transmitter takes and frees. -/

namespace Sys2Proof.Machine

/-! ### Ports with the same line -/

/-- The parts of a port that traffic on its queues and jobs leaves alone: the state of its link, its inbound stream and
its timer. -/
structure LinkPort.SameLine (p q : LinkPort) : Prop where
  state : q.state = p.state
  framing : q.framing = p.framing
  part : q.part = p.part
  run : q.malformedRun = p.malformedRun
  setting : q.setting = p.setting
  timer : q.timer = p.timer

theorem LinkPort.SameLine.refl (p : LinkPort) : p.SameLine p := ⟨rfl, rfl, rfl, rfl, rfl, rfl⟩

/-! ### The limits of a port by name -/

theorem LinkPort.Sound.jobs_nodup {p : LinkPort} (h : p.Sound) : (p.jobs.map Job.place).Nodup := h.2.1

theorem LinkPort.Sound.emptied {p : LinkPort} (h : p.Sound) (hd : p.state = .down) : p.Emptied := by
  obtain ⟨_, _, _, _, _, _, _, he, _⟩ := h
  exact he hd

theorem LinkPort.Sound.ready_nodup {p : LinkPort} (h : p.Sound) : p.ready.Nodup := by
  obtain ⟨_, _, _, _, _, _, _, _, hr, _⟩ := h
  exact hr

theorem LinkPort.Sound.mem_ready {p : LinkPort} (h : p.Sound) (k : Fin 4) :
    k ∈ p.ready ↔ ∃ j ∈ p.jobs, j.place = k ∧ j.isReady = true := by
  obtain ⟨_, _, _, _, _, _, _, _, _, hr, _⟩ := h
  exact hr k

theorem LinkPort.Sound.sending {p : LinkPort} (h : p.Sound) {k : Fin 4} (hk : p.tx.jobSlot = some k) :
    ∃ j ∈ p.jobs, j.place = k ∧ j.isSending = true := by
  obtain ⟨_, _, _, _, _, _, _, _, _, _, hs⟩ := h
  exact hs k hk

/-- The places of a port's jobs name one job each. -/
theorem LinkPort.Sound.job_unique {p : LinkPort} (h : p.Sound) {i j : Job} (hi : i ∈ p.jobs) (hj : j ∈ p.jobs)
    (hp : i.place = j.place) : i = j :=
  List.inj_on_of_nodup_map h.jobs_nodup hi hj hp

/-- Traffic on the queues of a port is traffic. -/
theorem LinkPort.Traffic.of_line {p q : LinkPort} (h : p.SameLine q) (hjobs : q.jobs = p.jobs) (hready :
    q.ready = p.ready)
    (hplaces : (p.intake.map Entry.place).Nodup → (q.intake.map Entry.place).Nodup)
    (hnotices : p.notices.length ≤ Config.noticeDepth → q.notices.length ≤ Config.noticeDepth)
    (htx : ∀ k, q.tx.jobSlot = some k → p.tx.jobSlot = some k) (hdown : p.state = .down → p.Emptied → q.Emptied) :
    p.Traffic q := by
  refine .of_jobs ?_ (fun hd => h.state ▸ hd) hjobs
  rintro ⟨h1, h2, h3, h4, ⟨h5, h5'⟩, h6, h7, h8, h9, h10, h11⟩
  refine ⟨hplaces h1, by rwa [hjobs], hnotices h3, by rwa [h.run], ⟨by rwa [h.framing, h.state],
    by rwa [h.framing, h.part]⟩, by rwa [h.setting], by rwa [h.timer, h.state, h.setting],
    fun hd => hdown (h.state ▸ hd) (h8 (h.state ▸ hd)), by rwa [hready], by rwa [hready, hjobs], fun k hk => ?_⟩
  rw [hjobs]
  exact h11 k (htx k hk)

/-! ### Notices -/

theorem LinkPort.told_traffic (p : LinkPort) (n : Notice) : p.Traffic (p.told n) := by
  unfold LinkPort.told LinkPort.putNotice
  split
  · exact .refl p
  · rename_i hd
    split
    · rename_i hl
      exact .of_line ⟨rfl, rfl, rfl, rfl, rfl, rfl⟩ rfl rfl id (fun _ => by simp; omega) (fun _ => id)
        fun h => absurd h hd
    · exact .of_line ⟨rfl, rfl, rfl, rfl, rfl, rfl⟩ rfl rfl id id (fun _ => id) fun h => absurd h hd

theorem LinkPort.reportLost_traffic (p : LinkPort) : p.Traffic p.reportLost := by
  unfold LinkPort.reportLost
  split
  · rename_i hl
    refine .of_line ⟨rfl, rfl, rfl, rfl, rfl, rfl⟩ rfl rfl id (fun _ => ?_) (fun _ => id) fun _ he => ?_
    · simp; omega
    · exact absurd he.2.2.2.1 hl.1
  · exact .refl p

theorem State.notify_keeps (s : State) (l : Link) (n : Notice) : s.Keeps (s.notify l n) := by
  have h := s.notify_sameButPorts l n
  refine .of_traffic ⟨⟨h.pending, fun hp => ?_, h.eqUsed, by rw [h.engine], h.clear, fun i => ?_⟩, h.slotMap,
    h.echoUsed, h.freeList⟩ h.channels
  · rw [State.PoolSound, h.pool]; exact hp
  · rw [State.port_notify]
    split
    · exact LinkPort.told_traffic _ n
    · exact .refl _

theorem State.notifyEach_keeps (s : State) (ls : List Link) (n : Notice) : s.Keeps (s.notifyEach ls n) :=
  .foldl (fun s l => s.notify_keeps l n) ls s

theorem State.notifyDevice_keeps (s : State) (b : NoticeBody) : s.Keeps (s.notifyDevice b) := s.notifyEach_keeps _ _

theorem State.raise_keeps (s : State) (c : Chan) (k : MaskKind) (b : NoticeBody) : s.Keeps (s.raise c k b) := by
  unfold State.raise
  split
  · exact s.notifyEach_keeps _ _
  · exact .refl s

theorem State.watermark_keeps (s : State) (c : Chan) (d : Nat) : s.Keeps (s.watermark c d) := by
  unfold State.watermark
  dsimp only
  split
  · exact s.raise_keeps c _ _
  · split
    · exact s.raise_keeps c _ _
    · exact .refl s

/-! ### Intake entries and answers -/

theorem LinkPort.places_markEntry (p : LinkPort) (k : Fin 4) (st : EntryState) :
    (p.markEntry k st).intake.map Entry.place = p.intake.map Entry.place := by
  simp only [LinkPort.markEntry, List.map_map]
  refine List.map_congr_left fun e _ => ?_
  simp only [Function.comp]
  split <;> rfl

theorem LinkPort.markEntry_traffic (p : LinkPort) (k : Fin 4) (st : EntryState) : p.Traffic (p.markEntry k st) := by
  refine .of_line ⟨rfl, rfl, rfl, rfl, rfl, rfl⟩ rfl rfl (fun h => ?_) id (fun _ => id) fun _ he => ?_
  · rw [p.places_markEntry]; exact h
  · obtain ⟨hi, he⟩ := he
    exact ⟨by simp [LinkPort.markEntry, hi], he⟩

theorem LinkPort.answer_traffic (p : LinkPort) (k : Fin 4) (code : Code) (body : List Word) :
    p.Traffic (p.answer k code body) := by
  unfold LinkPort.answer
  split
  · rename_i e he
    refine (p.markEntry_traffic k .answered).trans
      (.of_line ⟨rfl, rfl, rfl, rfl, rfl, rfl⟩ rfl rfl id id (fun _ => id) fun _ hem => ?_)
    have hi : p.intake = [] := List.map_eq_nil_iff.mp hem.1
    rw [LinkPort.entryAt, hi] at he
    cases he
  · exact .refl p

theorem State.answer_keeps (s : State) (l : Link) (k : Fin 4) (code : Code) (body : List Word) :
    s.Keeps (s.answer l k code body) := .updPort (LinkPort.answer_traffic _ k code body)

theorem State.answerOperation_keeps (s : State) (l : Link) (kind : CmdKind) (ch : ChanField) (code : Code)
    (body : List Word) : s.Keeps (s.answerOperation l kind ch code body) := by
  unfold State.answerOperation
  split
  · exact s.answer_keeps l _ _ _
  · exact .refl s

theorem State.answerRetune_keeps (s : State) (c : Chan) (code : Code) (body : List Word) :
    s.Keeps (s.answerRetune c code body) := by
  unfold State.answerRetune
  split
  · split
    · exact s.answerOperation_keeps _ _ _ _ _
    · exact .refl s
  · exact .refl s

theorem State.withdrawOffer_keeps (s : State) (c : Chan) (why : Reason) : s.Keeps (s.withdrawOffer c why) := by
  unfold State.withdrawOffer
  split
  · exact s.notify_keeps _ _
  · exact .refl s

/-- The settling of an entry keeps every invariant. -/
theorem State.settle_keeps (s : State) (l : Link) (k : Fin 4) (m : CmdMsg) (r : Reply) :
    s.Keeps (s.settle l k m r) := by
  cases r with
  | done code body => exact s.answer_keeps l k code body
  | started => exact State.Keeps.updPort (f := (·.markEntry k .inProgress)) (LinkPort.markEntry_traffic _ k _)
  | held => exact .of_eq rfl

/-- The limits of a port that bear on its line alone: its inbound stream, its timer and its malformed run. -/
theorem LinkPort.Traffic.of_stream {p q : LinkPort} (hjobs : q.jobs = p.jobs) (hready : q.ready = p.ready)
    (hintake : q.intake = p.intake) (hnotices : q.notices = p.notices) (hup : q.state ≠ .down)
    (htx : ∀ k, q.tx.jobSlot = some k → p.tx.jobSlot = some k)
    (hs : p.setting ≤ 255 → p.malformedRun ≤ 3 → (p.timer = true ↔ p.state ≠ .down ∧ p.setting ≠ 0) →
      q.malformedRun ≤ 3 ∧ q.FramingSound ∧ q.setting ≤ 255 ∧ (q.timer = true ↔ q.setting ≠ 0)) :
    p.Traffic q := by
  refine .of_jobs ?_ (fun hd => absurd hd hup) hjobs
  rintro ⟨h1, h2, h3, h4, -, h6, h7, -, h9, h10, h11⟩
  obtain ⟨hm, hf, hset, ht⟩ := hs h6 h4 h7
  refine ⟨by rwa [hintake], by rwa [hjobs], by rwa [hnotices], hm, hf, hset, ?_, fun hd => absurd hd hup,
      by rwa [hready],
    by rwa [hready, hjobs], fun k hk => ?_⟩
  · rw [ht]; exact ⟨fun h => ⟨hup, h⟩, fun h => h.2⟩
  · rw [hjobs]; exact h11 k (htx k hk)

theorem State.up_of_listens {s : State} {l : Link} (h : s.listens l = true) : (s.port l).state = .up := by
  simp only [State.listens, Bool.and_eq_true, beq_iff_eq] at h
  exact h.2

theorem LinkPort.atHeader_traffic {p : LinkPort} (h : p.state = .up) : p.Traffic p.atHeader :=
  .of_stream rfl rfl rfl rfl (by simp [h]) (fun _ => id) fun h6 h4 h7 =>
    ⟨h4, ⟨by simp [h, Framing.aligned], rfl⟩, h6, by rw [h] at h7; simpa using h7⟩

theorem LinkPort.heard_traffic {p : LinkPort} (h : p.state = .up) : p.Traffic p.heard :=
  .of_stream rfl rfl rfl rfl (by simp [h]) (fun _ => id) fun h6 _ _ =>
    ⟨Nat.zero_le 3, ⟨by simp [h, Framing.aligned], rfl⟩, h6, by simp⟩

theorem LinkPort.malformed_traffic {p : LinkPort} (h : p.state = .up) : p.Traffic p.malformed := by
  rw [LinkPort.malformed_eq]
  refine .of_stream rfl rfl rfl rfl ?_ (fun _ => id) fun h6 h4 h7 => ⟨?_, ?_, h6, ?_⟩
  · simp only [h]; split <;> simp
  · split <;> dsimp only <;> omega
  · unfold LinkPort.FramingSound
    split <;> simp [Framing.aligned, Framing.fits, h]
  · rw [h] at h7; simpa using h7

theorem LinkPort.resynced_traffic (p : LinkPort) : p.Traffic p.resynced := by
  unfold LinkPort.resynced
  split <;> refine .of_stream rfl rfl rfl rfl (by simp) ?_ fun h6 _ _ =>
    ⟨Nat.zero_le 3, ⟨by simp [Framing.aligned], rfl⟩, h6, by simp⟩
  · intro k hk; cases hk
  · exact fun _ => id
  · exact fun _ => id

/-- A command that enters a free place of an UP link. -/
theorem LinkPort.entered_traffic {p : LinkPort} {k : Fin 4} (hup : p.state = .up) (hk : p.freePlace = some k)
    (m : CmdMsg) (st : EntryState) : p.Traffic (p.entered k m st) := by
  refine (LinkPort.heard_traffic hup).trans (.of_line ⟨rfl, rfl, rfl, rfl, rfl, rfl⟩ rfl rfl (fun hn => ?_) id
    (fun _ => id) fun hd => absurd hd (by simp [hup]))
  have hnew : ∀ e ∈ p.intake, e.place ≠ k := LinkPort.place_free hk
  simp only [LinkPort.entered, List.map_append, List.map_cons, List.map_nil]
  refine List.nodup_append.mpr ⟨hn, by simp, fun a ha b hb => ?_⟩
  obtain ⟨e, he, rfl⟩ := List.mem_map.mp ha
  rw [List.mem_singleton.mp hb]
  exact hnew e he

/-- The arrival of a command keeps what its owner keeps. -/
theorem State.arrive_keeps (s : State) (l : Link) (m : CmdMsg) (take : Taking)
    (ht : ∀ k (s : State), (s.port l).state = .up → s.Keeps (take l k m s).1) : s.Keeps (s.arrive l m take) := by
  cases hl : s.listens l with
  | false => rw [State.arrive_deaf hl]; exact .refl s
  | true =>
    have hup := State.up_of_listens hl
    cases hk : (s.port l).freePlace with
    | none =>
      have hk' : ((s.updPort l LinkPort.heard).port l).freePlace = none := by rw [State.port_updPort]; exact hk
      unfold State.arrive
      simp only [hl, if_true, hk']
      refine (State.Keeps.updPort (LinkPort.heard_traffic hup)).trans (.trans (.updPort ?_) (State.notify_keeps _ _ _))
      exact .of_line ⟨rfl, rfl, rfl, rfl, rfl, rfl⟩ rfl rfl id id (fun _ => id)
        fun hd => absurd hd (by simp [hup])
    | some k =>
      rw [State.arrive_eq hl hk]
      have hr : s.Keeps (s.received l k m) := .updPort (LinkPort.entered_traffic hup hk m _)
      split
      · have he : s.replies l k m .resetting [] = (s.received l k m).answer l k .resetting [] := by
          simp [State.replies, State.received, State.answer]
          simp [State.updPort, LinkPort.answer_entered hk]
        rw [he]
        exact hr.trans (State.answer_keeps _ _ _ _ _)
      · exact (hr.trans (ht k _ (by rw [State.received, State.port_updPort]; exact hup))).trans
          (State.settle_keeps _ _ _ _ _)

/-! ### Watches and counters -/

theorem LinkPort.watchStep_traffic (p : LinkPort) (c : Chan) (ch : Channel) (seq : Seq) :
    p.Traffic (p.watchStep c ch seq) := by
  unfold LinkPort.watchStep
  split
  · rename_i w hw
    have hd : p.state = .down → ¬ p.Emptied := fun _ ⟨_, _, _, _, _, _, _, h, _⟩ => by rw [h] at hw; cases hw
    split
    · split
      · exact .of_line ⟨rfl, rfl, rfl, rfl, rfl, rfl⟩ rfl rfl id id (fun _ => id) fun h he => absurd he (hd h)
      · exact .of_line ⟨rfl, rfl, rfl, rfl, rfl, rfl⟩ rfl rfl id id (fun _ => id) fun h he => absurd he (hd h)
    · exact .refl p
  · exact .refl p

theorem LinkPort.dropWatch_traffic (p : LinkPort) : p.Traffic { p with watch := none, watchData := none } :=
  .of_line ⟨rfl, rfl, rfl, rfl, rfl, rfl⟩ rfl rfl id id (fun _ => id)
    fun _ ⟨h1, h2, h3, h4, h5, h6, h7, _, _, h10⟩ => ⟨h1, h2, h3, h4, h5, h6, h7, rfl, rfl, h10⟩

theorem State.endWatch_keeps (c : Chan) (s : State) (l : Link) : s.Keeps (State.endWatch c s l) := by
  unfold State.endWatch
  split
  · split
    · exact (State.Keeps.updPort (LinkPort.dropWatch_traffic _)).trans (State.notify_keeps _ _ _)
    · exact .refl s
  · exact .refl s

theorem State.watchStep_keeps (s : State) (c : Chan) (seq : Seq) : s.Keeps (s.watchStep c seq) :=
  .updPorts fun _ => LinkPort.watchStep_traffic _ _ _ _

/-! ### Results of jobs -/

/-- A port whose jobs change state in their slots, with a ready list that follows them. -/
theorem LinkPort.Sound.of_jobs {p q : LinkPort} (hp : p.Sound) (h : p.SameLine q) (hintake : q.intake = p.intake)
    (hnotices : q.notices.length ≤ p.notices.length) (f : Job → Job) (hf : ∀ j, (f j).place = j.place)
    (hjobs : q.jobs = p.jobs.map f) (hnodup : q.ready.Nodup)
    (hready : ∀ k, k ∈ q.ready ↔ ∃ j ∈ p.jobs, j.place = k ∧ (f j).isReady = true)
    (htx : ∀ k, q.tx.jobSlot = some k → ∃ j ∈ p.jobs, j.place = k ∧ (f j).isSending = true)
    (hdown : p.state = .down → q.Emptied) : q.Sound := by
  obtain ⟨h1, h2, h3, h4, ⟨h5, h5'⟩, h6, h7, -, -, -, -⟩ := hp
  have hplaces : q.jobs.map Job.place = p.jobs.map Job.place := by
    rw [hjobs, List.map_map]
    exact List.map_congr_left fun j _ => hf j
  refine ⟨by rwa [hintake], by rwa [hplaces], hnotices.trans h3, by rwa [h.run], ⟨by rwa [h.framing, h.state],
    by rwa [h.framing, h.part]⟩, by rwa [h.setting], by rwa [h.timer, h.state, h.setting],
    fun hd => hdown (h.state ▸ hd), hnodup, fun k => ?_, fun k hk => ?_⟩
  · rw [hready k, hjobs]
    constructor
    · rintro ⟨j, hj, hjk, hr⟩
      exact ⟨f j, List.mem_map_of_mem hj, (hf j).trans hjk, hr⟩
    · rintro ⟨j', hj', hjk, hr⟩
      obtain ⟨j, hj, rfl⟩ := List.mem_map.mp hj'
      exact ⟨j, hj, (hf j).symm.trans hjk, hr⟩
  · obtain ⟨j, hj, hjk, hs⟩ := htx k hk
    rw [hjobs]
    exact ⟨f j, List.mem_map_of_mem hj, (hf j).trans hjk, hs⟩

theorem Job.queuedFor_iff (c : Chan) (j : Job) : j.queuedFor c = true ↔ j.state = .queued ∧ j.chan = fieldOfChan c := by
  simp [Job.queuedFor]

/-- The results of queued jobs become ready in some order of exactly those jobs. -/
theorem LinkPort.ready_finishQueued (p : LinkPort) (c : Chan) (st : EqStatus) (n : Nat) :
    ∃ order : List (Fin 4), order.Perm ((p.jobs.filter (Job.queuedFor c)).map Job.place) ∧
      (p.finishQueued c st n).ready = p.ready ++ order := ⟨_, sortByKey_perm _ _, rfl⟩

theorem LinkPort.finishQueued_traffic (p : LinkPort) (c : Chan) (st : EqStatus) (n : Nat) :
    p.Traffic (p.finishQueued c st n) := by
  obtain ⟨order, hperm, hready⟩ := p.ready_finishQueued c st n
  have hmem : ∀ k, k ∈ order ↔ ∃ j ∈ p.jobs, j.queuedFor c = true ∧ j.place = k := fun k => by
    rw [hperm.mem_iff]
    simp [List.mem_map, List.mem_filter, and_assoc]
  refine ⟨fun hp => ?_, id, ?_, fun hp j hs => ?_, fun he => by simp [LinkPort.finishQueued, he]⟩
  · refine hp.of_jobs ⟨rfl, rfl, rfl, rfl, rfl, rfl⟩ rfl le_rfl (f := fun j => if j.queuedFor c then
        { j with state := .ready (EqResult.bare st) } else j)
      (fun j => by split <;> rfl) rfl ?_ (fun k => ?_) (fun k hk => ?_) fun hd => ?_
    · rw [hready]
      refine List.nodup_append.mpr ⟨hp.ready_nodup, ?_, fun a ha b hb => ?_⟩
      · exact hperm.nodup_iff.mpr (hp.jobs_nodup.sublist (List.Sublist.map _ List.filter_sublist))
      · rintro rfl
        obtain ⟨i, hi, hik, hr⟩ := (hp.mem_ready a).mp ha
        obtain ⟨j, hj, hq, hjk⟩ := (hmem a).mp hb
        have hij := hp.job_unique hi hj (hik.trans hjk.symm)
        rw [hij, Job.isReady, ((j.queuedFor_iff c).mp hq).1] at hr
        cases hr
    · rw [hready, List.mem_append, hmem, hp.mem_ready k]
      constructor
      · rintro (⟨j, hj, hjk, hr⟩ | ⟨j, hj, hq, hjk⟩)
        · refine ⟨j, hj, hjk, ?_⟩
          split
          · rfl
          · exact hr
        · exact ⟨j, hj, hjk, by rw [if_pos hq]; rfl⟩
      · rintro ⟨j, hj, hjk, hr⟩
        by_cases hq : j.queuedFor c = true
        · exact .inr ⟨j, hj, hq, hjk⟩
        · rw [if_neg hq] at hr
          exact .inl ⟨j, hj, hjk, hr⟩
    · obtain ⟨j, hj, hjk, hs⟩ := hp.sending hk
      refine ⟨j, hj, hjk, ?_⟩
      rw [if_neg ?_]
      · exact hs
      · rw [Job.queuedFor_iff]
        rintro ⟨hq, -⟩
        rw [Job.isSending, hq] at hs
        cases hs
    · obtain ⟨e1, e2, e3, e4, e5, e6, e7, e8, e9, e10⟩ := hp.emptied hd
      exact ⟨e1, e2, e3, e4, e5, by simp [LinkPort.finishQueued, e6],
          by simp [LinkPort.finishQueued, e6, e7, sortByKey],
        e8, e9, e10⟩
  · intro j hj hs
    obtain ⟨i, hi, rfl⟩ := List.mem_map.mp hj
    split at hs
    · cases hs
    · rename_i hq; rw [if_neg hq]; exact hi
  · constructor
    · intro hj
      obtain ⟨i, hi, rfl⟩ := List.mem_map.mp hj
      split at hs
      · cases hs
      · rename_i hq; rw [if_neg hq]; exact hi
    · intro hj
      refine List.mem_map.mpr ⟨j, hj, if_neg ?_⟩
      rw [Job.queuedFor_iff, hs]
      simp

theorem State.finishQueued_keeps (s : State) (c : Chan) (st : EqStatus) : s.Keeps (s.finishQueued c st) :=
  (State.Keeps.updPorts fun _ => LinkPort.finishQueued_traffic _ c st s.freeCount).trans (.of_eq rfl)

theorem State.finishQueuedOf_keeps (s : State) (l : Link) (c : Chan) (st : EqStatus) :
    s.Keeps (s.finishQueuedOf l c st) :=
  (State.Keeps.updPort (LinkPort.finishQueued_traffic _ c st s.freeCount)).trans (.of_eq rfl)

/-! ### The transmitter -/

/-- A port that starts to send something that frees no job slot, or stops sending. -/
theorem LinkPort.Traffic.of_send {p q : LinkPort} (h : p.SameLine q) (hjobs : q.jobs = p.jobs) (hready :
    q.ready = p.ready)
    (hplaces : (p.intake.map Entry.place).Nodup → (q.intake.map Entry.place).Nodup)
    (hnotices : q.notices.length ≤ p.notices.length) (htx : q.tx.jobSlot = none) (hd : p.Emptied → q.Emptied) :
    p.Traffic q :=
  .of_line h hjobs hready hplaces (fun hp => hnotices.trans hp) (fun k hk => by rw [htx] at hk; cases hk) fun _ => hd

/-- The start of an EQ_OUT: the oldest READY job stands SENDING in its slot. -/
theorem LinkPort.sendJob_traffic {p : LinkPort} {k : Fin 4} {ks : List (Fin 4)} {j : Job} (hr : p.ready = k :: ks)
    (hj : p.jobAt k = some j) :
    p.Traffic { p.updJob k (fun j => { j with state := .sending j.result }) with
      tx := .sending (.eqOut j.tag j.chan j.result (some k)), ready := ks } := by
  have hjm : j ∈ p.jobs := List.mem_of_find?_eq_some hj
  have hjk : j.place = k := by simpa [LinkPort.jobAt] using List.find?_some hj
  have hready : p.Sound → ∀ i ∈ p.jobs, i.place = k → i.isReady = true := fun hp i hi hik => by
    obtain ⟨i', hi', hik', hr'⟩ := (hp.mem_ready k).mp (by simp [hr])
    rwa [hp.job_unique hi hi' (hik.trans hik'.symm)]
  refine ⟨fun hp => ?_, id, ?_, fun hp i hs => ?_, fun he => by simp [LinkPort.updJob, he]⟩
  · have hnd : k ∉ ks ∧ ks.Nodup := by have := hp.ready_nodup; rw [hr] at this; exact List.nodup_cons.mp this
    refine hp.of_jobs ⟨rfl, rfl, rfl, rfl, rfl, rfl⟩ rfl le_rfl
      (f := fun i => if i.place = k then { i with state := .sending i.result } else i) (fun i => by split <;> rfl) rfl
      hnd.2 (fun k' => ?_) (fun k' hk' => ?_) fun hd => ?_
    · constructor
      · intro hk'
        obtain ⟨i, hi, hik, hr'⟩ := (hp.mem_ready k').mp (by rw [hr]; exact List.mem_cons_of_mem _ hk')
        refine ⟨i, hi, hik, ?_⟩
        rw [if_neg]
        · exact hr'
        · rintro rfl; exact hnd.1 (hik ▸ hk')
      · rintro ⟨i, hi, hik, hr'⟩
        split at hr'
        · cases hr'
        · rename_i hne
          have := (hp.mem_ready k').mpr ⟨i, hi, hik, hr'⟩
          rw [hr] at this
          exact (List.mem_cons.mp this).resolve_left fun h => hne (hik.trans h)
    · obtain rfl : k = k' := Option.some.inj hk'
      exact ⟨j, hjm, hjk, by rw [if_pos hjk]; rfl⟩
    · obtain ⟨-, -, -, -, -, he, -⟩ := hp.emptied hd
      rw [he] at hjm
      cases hjm
  · intro i hi hs
    obtain ⟨i', hi', rfl⟩ := List.mem_map.mp hi
    split at hs
    · cases hs
    · rename_i hne; rw [if_neg hne]; exact hi'
  · constructor
    · intro hi
      obtain ⟨i', hi', rfl⟩ := List.mem_map.mp hi
      split at hs
      · cases hs
      · rename_i hne; rw [if_neg hne]; exact hi'
    · intro hi
      refine List.mem_map.mpr ⟨i, hi, if_neg fun hik => ?_⟩
      have := hready hp i hi hik
      rw [Job.isReady, hs] at this
      cases this

/-- A ready slot without a job is passed over; on a port within its limits there is none. -/
theorem LinkPort.skipReady_traffic {p : LinkPort} {k : Fin 4} {ks : List (Fin 4)} (hr : p.ready = k :: ks)
    (hj : p.jobAt k = none) : p.Traffic { p with ready := ks } := by
  refine .of_jobs (fun hp => ?_) id rfl
  obtain ⟨j, hj', hjk, -⟩ := (hp.mem_ready k).mp (by simp [hr])
  have := List.find?_eq_none.mp hj j hj'
  simp [hjk] at this

theorem startRx_sublist (l : Link) (q : List RxEntry) {e : RxEntry} (he : e ∈ startRx l q) :
    e ∈ q ∨ ∃ x ∈ q, e = { x with due := x.due.filter (· != l) } ∧ e.due ≠ [] := by
  induction q with
  | nil => exact .inl he
  | cons x xs ih =>
    unfold startRx at he
    split at he
    · split at he
      · exact .inl (List.mem_cons_of_mem _ he)
      · rename_i hne
        rcases List.mem_cons.mp he with rfl | he
        · exact .inr ⟨x, by simp, rfl, by simpa using hne⟩
        · exact .inl (List.mem_cons_of_mem _ he)
    · rcases List.mem_cons.mp he with rfl | he
      · exact .inl (by simp)
      · rcases ih he with h | ⟨y, hy, h⟩
        · exact .inl (List.mem_cons_of_mem _ h)
        · exact .inr ⟨y, List.mem_cons_of_mem _ hy, h⟩

theorem length_startRx_le (l : Link) (q : List RxEntry) : (startRx l q).length ≤ q.length := by
  induction q with
  | nil => simp [startRx]
  | cons x xs ih =>
    unfold startRx
    split
    · split <;> simp
    · simpa using ih

/-- What a completed message frees leaves a port within its limits. -/
theorem LinkPort.completed_traffic {p : LinkPort} {m : OutMsg} (hm : p.tx = .sending m) :
    p.Traffic { p.completed m with tx := .idle } := by
  have idle : ∀ q : LinkPort, q.Traffic { q with tx := .idle } := fun q =>
    .of_send ⟨rfl, rfl, rfl, rfl, rfl, rfl⟩ rfl rfl id le_rfl rfl
      fun ⟨h1, h2, h3, h4, _, h6, h7, h8, h9, h10⟩ => ⟨h1, h2, h3, h4, rfl, h6, h7, h8, h9, h10⟩
  unfold LinkPort.completed
  split
  · rename_i r
    split
    · rename_i k hk
      refine .of_send ⟨rfl, rfl, rfl, rfl, rfl, rfl⟩ rfl rfl (fun hn => ?_) le_rfl rfl
        fun ⟨h1, h2, h3, h4, _, h6, h7, h8, h9, h10⟩ =>
          ⟨by simp [LinkPort.releaseEntry, h1], h2, h3, h4, rfl, h6, h7, h8, h9, h10⟩
      exact hn.sublist (List.Sublist.map _ List.filter_sublist)
    · exact idle p
  · exact (p.reportLost_traffic).trans (idle _)
  · rename_i tag ch r entry
    split
    · rename_i k
      have hslot : p.tx.jobSlot = some k := by rw [hm]; rfl
      have hsend : p.Sound → ∀ i ∈ p.jobs, i.place = k → i.isSending = true := fun hp i hi hik => by
        obtain ⟨i', hi', hik', hs⟩ := hp.sending hslot
        rwa [hp.job_unique hi hi' (hik.trans hik'.symm)]
      have hfree : ∀ i, i ∈ (p.freeJob k).jobs ↔ i ∈ p.jobs ∧ i.place ≠ k := fun i => by
        simp [LinkPort.freeJob, List.mem_filter]
      refine ⟨fun hp => ?_, id, fun i hi _ => ((hfree i).mp hi).1, fun hp i hs => ?_,
        fun he => by simp [LinkPort.freeJob, he]⟩
      · have hp' := hp
        obtain ⟨h1, h2, h3, h4, h5, h6, h7, h8, h9, h10, h11⟩ := hp'
        refine ⟨h1, h2.sublist (List.Sublist.map _ List.filter_sublist), h3, h4, h5, h6, h7, fun hd => ?_, h9,
          fun k' => ?_, fun k' hk' => by cases hk'⟩
        · obtain ⟨e1, e2, e3, e4, e5, e6, e7, e8, e9, e10⟩ := h8 hd
          rw [hm] at e5
          cases e5
        · refine (h10 k').trans ⟨?_, ?_⟩
          · rintro ⟨j, hj, hjk, hr⟩
            refine ⟨j, (hfree j).mpr ⟨hj, fun h => ?_⟩, hjk, hr⟩
            have := hsend hp j hj h
            unfold Job.isReady at hr
            unfold Job.isSending at this
            cases hjs : j.state <;> simp [hjs] at hr this
          · rintro ⟨j, hj, hjk, hr⟩
            exact ⟨j, ((hfree j).mp hj).1, hjk, hr⟩
      · refine (hfree i).trans ⟨And.left, fun hi => ⟨hi, fun hik => ?_⟩⟩
        have := hsend hp i hi hik
        rw [Job.isSending, hs] at this
        cases this
    · exact idle p
  · exact idle p
  · exact idle p

end Sys2Proof.Machine

/-! SUPPORT. The playout's window, and why every operation of the playout keeps its fields in their ranges (R32 to
R39). -/

namespace Sys2Proof.Machine

/-! ### The window -/

theorem getElem_shiftWindow (n : Nat) (w : Vector (Option Block) 16) (i : Nat) (hi : i < 16) :
    (shiftWindow n w)[i] = if h : i + n < 16 then w[i + n] else none := by
  have hl : (w.toList.drop n).length = 16 - n := by simp
  show ((w.toList.drop n ++ List.replicate 16 none).take 16)[i]'(by simp; omega) = _
  rw [List.getElem_take, List.getElem_append]
  split
  · rename_i h
    rw [hl] at h
    rw [dif_pos (by omega), List.getElem_drop]
    simp [Nat.add_comm]
  · rename_i h
    rw [hl] at h
    rw [dif_neg (by omega), List.getElem_replicate]

theorem Playout.depth_pos_iff (p : Playout) : 0 < p.depth ↔ ∃ i : Fin 16, p.window[i].isSome = true := by
  rw [Playout.depth, List.length_pos_iff_exists_mem]
  simp only [List.mem_filter, Vector.mem_toList_iff, Vector.mem_iff_getElem]
  constructor
  · rintro ⟨x, ⟨i, hi, rfl⟩, hx⟩
    exact ⟨⟨i, hi⟩, hx⟩
  · rintro ⟨i, hi⟩
    exact ⟨_, ⟨i.val, i.isLt, rfl⟩, hi⟩

theorem Playout.depth_pos_of {p : Playout} {i : Nat} (hi : i < 16) {b : Block} (h : p.window[i] = some b) :
    0 < p.depth :=
  p.depth_pos_iff.mpr ⟨⟨i, hi⟩, by simp [h]⟩

/-- The lowest occupied offset of a window that has one. -/
theorem lowestOffset_spec {w : Vector (Option Block) 16} {i : Fin 16} (h : w[i].isSome = true) :
    ∃ hl : lowestOffset w < 16, (w[lowestOffset w]).isSome = true ∧ ∀ j :
        Fin 16, j.val < lowestOffset w → w[j] = none := by
  have hex : ∃ x ∈ w.toList, x.isSome = true := ⟨w[i], by simp [Vector.mem_toList_iff], h⟩
  have hlt : lowestOffset w < w.toList.length := List.findIdx_lt_length_of_exists hex
  have hl : lowestOffset w < 16 := by simpa using hlt
  refine ⟨hl, ?_, fun j hj => ?_⟩
  · have := List.findIdx_getElem (p := Option.isSome) (xs := w.toList) (w := hlt)
    rw [← Vector.getElem_toList]
    exact this
  · have := List.not_of_lt_findIdx (p := Option.isSome) (xs := w.toList) hj
    simpa using this

/-! ### What each operation of the playout leaves -/

/-- The transition out of PRIMING keeps the playout's fields in their ranges (R36). -/
theorem Playout.startCheck_sound {p : Playout} (h : p.Sound) : p.startCheck.Sound := by
  unfold Playout.startCheck
  split
  · rename_i hc
    obtain ⟨h1, h2, h3, -, -⟩ := h
    obtain ⟨i, hi⟩ := p.depth_pos_iff.mp (show 0 < p.depth by omega)
    obtain ⟨hl, hs, -⟩ := lowestOffset_spec hi
    refine ⟨h1, h2, h3, nofun, fun _ => .inr ?_⟩
    refine (Playout.depth_pos_iff _).mpr ⟨0, ?_⟩
    show ((shiftWindow (lowestOffset p.window) p.window)[0]).isSome = true
    rw [getElem_shiftWindow, dif_pos (by omega)]
    simpa using hs
  · exact h

theorem Playout.store_of_lt {p : Playout} {o : Nat} (h : o < 16) (b : Block) :
    p.store o b = { p with window := p.window.set o (some b) } := dif_pos h

/-- A window with a block stored in it is not empty. -/
theorem Playout.depth_store_pos (p : Playout) {o : Nat} (h : o < 16) (b : Block) : 0 < (p.store o b).depth := by
  rw [Playout.store_of_lt h]
  exact Playout.depth_pos_of h (b := b) (by simp)

theorem Playout.store_sound {p : Playout} (h : p.Sound) {o : Nat} (ho : o < 16) (b : Block) : (p.store o b).Sound := by
  have hd := p.depth_store_pos ho b
  rw [Playout.store_of_lt ho] at *
  obtain ⟨h1, h2, h3, h4, -⟩ := h
  exact ⟨h1, h2, h3, h4, fun _ => .inr hd⟩

theorem Playout.jump_sound {p : Playout} (h : p.Sound) (s : Seq) (b : Block) : (p.jump s b).Sound := by
  have hd := Playout.depth_store_pos { p with window := shiftWindow (p.offset s - 15) p.window, e := s - 15 }
    (show 15 < 16 by omega) b
  unfold Playout.jump
  rw [Playout.store_of_lt (by omega)] at *
  obtain ⟨h1, h2, h3, h4, -⟩ := h
  exact ⟨h1, h2, h3, h4, fun _ => .inr hd⟩

theorem Playout.underrun_sound {p : Playout} (h : p.Sound) (r : Fin 17) : (p.underrun r).Sound := by
  obtain ⟨-, h2, h3, -, -⟩ := h
  exact ⟨Nat.le_of_lt_succ r.isLt, h2, h3, fun _ => rfl, nofun⟩

theorem Playout.startBlock_sound {p : Playout} (h : p.Sound) (hp : p.state = .playing) (b : Block) :
    (p.startBlock b).Sound := by
  obtain ⟨-, h2, h3, -, -⟩ := h
  exact ⟨by simp [Playout.startBlock], h2, h3, fun hq => by simp [Playout.startBlock, hp] at hq, fun _ => .inl rfl⟩

theorem Playout.startFill_sound {p : Playout} (h : p.Sound) (hp : p.state = .playing) : p.startFill.Sound := by
  obtain ⟨-, h2, h3, -, -⟩ := h
  exact ⟨by simp [Playout.startFill], h2, h3, fun hq => by simp [Playout.startFill, hp] at hq, fun _ => .inl rfl⟩

end Sys2Proof.Machine

/-! SUPPORT. Edits of a channel record, one by one: which of them leave alone what the accounts and the roles read, and
why each keeps the record within its ranges. -/

namespace Sys2Proof.Machine

/-! ### Filters -/

/-- A filter with as many taps as before, OFF if it was, and the same exponents. -/
theorem Filter.Sound.of_taps {f g : Filter} {n : Nat} (h : f.Sound n) (ht : g.taps.length = f.taps.length)
    (hg : f.gear = .off → g.gear = .off) (h1 : g.trainM = f.trainM) (h2 : g.trackM = f.trackM) (h3 : g.leak = f.leak) :
    g.Sound n := by
  obtain ⟨hl, ho, hr⟩ := h
  exact ⟨ht.trans hl, fun hn => hg (ho hn), by rwa [h1, h2, h3]⟩

theorem effectiveStep_range (n : Nat) : 12 ≤ effectiveStep n ∧ effectiveStep n ≤ 30 := by
  unfold effectiveStep clampNat; omega

theorem effectiveLeak_range (n : Nat) : effectiveLeak n = 0 ∨ (12 ≤ effectiveLeak n ∧ effectiveLeak n ≤ 30) := by
  unfold effectiveLeak clampNat; split <;> omega

theorem Filter.adaptTo_sound {f : Filter} {n : Nat} (h : f.Sound n) (w : Word) : (f.adaptTo w).Sound n := by
  obtain ⟨hl, -⟩ := h
  refine ⟨hl, fun hn => ?_, effectiveStep_range _, effectiveStep_range _, effectiveLeak_range _⟩
  have : f.taps = [] := List.length_eq_zero_iff.mp (hl.trans hn)
  simp [Filter.adaptTo, this]

theorem Filter.zeroTaps_sound {f : Filter} {n : Nat} (h : f.Sound n) : f.zeroTaps.Sound n :=
  h.of_taps (by simp [Filter.zeroTaps]) id rfl rfl rfl

theorem Filter.retrain_sound {f : Filter} {n : Nat} (h : f.Sound n) : f.retrain.Sound n := by
  unfold Filter.retrain
  split
  · rename_i ha
    exact h.of_taps (by simp [Filter.zeroTaps]) (fun ho => by rw [ho] at ha; cases ha) rfl rfl rfl
  · exact h

theorem Filter.leaked_sound {f : Filter} {n : Nat} (h : f.Sound n) : f.leaked.Sound n := by
  unfold Filter.leaked
  split
  · exact h.of_taps (by simp) id rfl rfl rfl
  · exact h

theorem Filter.leaked_gear (f : Filter) : f.leaked.gear = f.gear := by unfold Filter.leaked; split <;> rfl

theorem length_updateTaps (e : Int) (m : Nat) (age : Nat → Sample) (k : Nat) (ts : List Tap) :
    (updateTaps e m age k ts).length = ts.length := by
  induction ts generalizing k with
  | nil => rfl
  | cons t ts ih => simp [updateTaps, ih]

theorem Filter.adapt_sound {f : Filter} {n : Nat} (h : f.Sound n) (e : Int) (age : Nat → Sample) :
    (f.adapt e age).Sound n := by
  unfold Filter.adapt
  split
  · exact h.of_taps (length_updateTaps _ _ _ _ _) id rfl rfl rfl
  · exact h

theorem Filter.adapt_gear (f : Filter) (e : Int) (age : Nat → Sample) : (f.adapt e age).gear = f.gear := by
  unfold Filter.adapt; split <;> rfl

theorem Filter.toTrack_sound {f : Filter} {n : Nat} (h : f.Sound n) {b : Bool} (hb : b = true → f.gear = .train) :
    (if b then { f with gear := .track } else f : Filter).Sound n := by
  split
  · rename_i ht
    exact h.of_taps rfl (fun ho => by rw [hb ht] at ho; cases ho) rfl rfl rfl
  · exact h

theorem Filter.restore_sound {f : Filter} {n : Nat} (h : f.Sound n) : f.restore.Sound n := by
  obtain ⟨hl, -, hr⟩ := h
  refine ⟨hl, fun hn => ?_, hr⟩
  have : f.taps = [] := List.length_eq_zero_iff.mp (hl.trans hn)
  simp [Filter.restore, this]

theorem Gear.adapts_held (g : Gear) : g.held.adapts = false := by cases g <;> rfl

theorem Filter.orphanHold_sound {f : Filter} {n : Nat} (h : f.Sound n) : f.orphanHold.Sound n :=
  h.of_taps rfl (fun ho => by simp [Filter.orphanHold, ho, Gear.held]) rfl rfl rfl

/-! ### Power estimates -/

/-- A power estimate of at most `64 b` stays so while it gains at most `b` (R54, R105). -/
theorem powerStep_le {p : BitVec 32} {n b : Nat} (hb : b ≤ 33554432) (hn : n ≤ b) (hp : p.toNat ≤ 64 * b) :
    p.toNat - p.toNat / 64 + n ≤ 64 * b ∧ p.toNat - p.toNat / 64 + n < 2 ^ 32 := by
  omega

/-- The square of a 16-bit number, over 64. -/
theorem square_div_le {v : Int} (h1 : -32768 ≤ v) (h2 : v ≤ 32767) : 0 ≤ v * v ∧ v * v ≤ 1073741824 := by
  constructor <;> nlinarith

theorem toNat_powerStep {p : BitVec 32} {v : Int} (h1 : -32768 ≤ v) (h2 : v ≤ 32767) (hp : p.toNat ≤ 2 ^ 30) :
    (powerStep p v).toNat = p.toNat - p.toNat / 64 + (v * v / 64).toNat ∧ (powerStep p v).toNat ≤ 2 ^ 30 := by
  obtain ⟨h0, hv⟩ := square_div_le h1 h2
  obtain ⟨hle, hlt⟩ := powerStep_le (p := p) (n := (v * v / 64).toNat) (b := 16777216) (by omega) (by omega) (by omega)
  have he : (powerStep p v).toNat = p.toNat - p.toNat / 64 + (v * v / 64).toNat := by
    rw [powerStep, BitVec.toNat_ofNat, Nat.mod_eq_of_lt hlt]
  exact ⟨he, by rw [he]; omega⟩

theorem toNat_pepsStep {p : BitVec 32} {er ei : Int} (h1 : -32768 ≤ er) (h2 : er ≤ 32767) (h3 : -32768 ≤ ei)
    (h4 : ei ≤ 32767) (hp : p.toNat ≤ 2 ^ 31) :
    (pepsStep p er ei).toNat = p.toNat - p.toNat / 64 + ((er * er + ei * ei) / 64).toNat ∧
      (pepsStep p er ei).toNat ≤ 2 ^ 31 := by
  obtain ⟨h0, hv⟩ := square_div_le h1 h2
  obtain ⟨h0', hv'⟩ := square_div_le h3 h4
  obtain ⟨hle, hlt⟩ := powerStep_le (p := p) (n := ((er * er + ei * ei) / 64).toNat) (b := 33554432) (by omega)
    (by omega) (by omega)
  have he : (pepsStep p er ei).toNat = p.toNat - p.toNat / 64 + ((er * er + ei * ei) / 64).toNat := by
    rw [pepsStep, BitVec.toNat_ofNat, Nat.mod_eq_of_lt hlt]
  exact ⟨he, by rw [he]; omega⟩

theorem saturateSample_range (x : Int) : -32768 ≤ saturateSample x ∧ saturateSample x ≤ 32767 := by
  unfold saturateSample saturate; split_ifs <;> omega

theorem sample_range (y : Sample) : -32768 ≤ y.toInt ∧ y.toInt ≤ 32767 := by
  have h1 := BitVec.le_toInt y
  have h2 := BitVec.toInt_lt (x := y)
  norm_num at h1 h2
  omega

/-! ### Edits of a running channel -/

/-- An edit of a running channel's record that keeps what the accounts and the roles read, its ranges and its EQ
context. -/
theorem State.Keeps.updService {s : State} {c : Chan} {f : Channel → Channel}
    (h : (s.chan c).SameService (f (s.chan c))) (hr : (s.chan c).state.runs = true)
    (hs : (s.chan c).Sound → (f (s.chan c)).Sound) (heq : (f (s.chan c)).eq = (s.chan c).eq) :
    s.Keeps (s.updChan c f) :=
  .updChan (.of_service h hr hs heq _) fun l hl => by
    rw [Channel.HeldBy, h.state, h.holder]; exact hl

/-- An edit of a running channel's record that changes its EQ context within its ranges. -/
theorem State.Keeps.updEq {s : State} {c : Chan} {f : Channel → Channel} {g : EqCtx → EqCtx}
    (h : (s.chan c).SameService (f (s.chan c))) (hr : (s.chan c).state.runs = true)
    (hs : (s.chan c).Sound → (f (s.chan c)).Sound) (heq : (f (s.chan c)).eq = (s.chan c).eq.map g)
    (hne : ∀ q, (g q).ne = q.ne) (hq : ∀ q : EqCtx, q.Sound → (g q).Sound) : s.Keeps (s.updChan c f) :=
  .updChan (.of_eq h hr hs heq hne hq _) fun l hl => by
    rw [Channel.HeldBy, h.state, h.holder]; exact hl

theorem Channel.HeldBy.not_orphaned {ch : Channel} {l : Link} (h : ch.HeldBy l) : ch.state ≠ .orphaned := by
  obtain ⟨h | h, -⟩ := h <;> simp [h]

/-- SET_ADAPT as one change of the record (R63). -/
theorem Channel.adaptTo_eq (ch : Channel) (m : CmdMsg) : ch.adaptTo m = { ch with
    near := if adaptHas m 0 then ch.near.adaptTo (m.word 2) else ch.near
    far := if adaptHas m 1 then ch.far.adaptTo (m.word 3) else ch.far
    autoNear := if adaptHas m 2 then hasBit (m.word 1).toNat 4 else ch.autoNear
    autoFar := if adaptHas m 2 then hasBit (m.word 1).toNat 5 else ch.autoFar
    c := if adaptHas m 2 then clampNat 1 15 (fieldAt (m.word 1) 8 8) else ch.c
    convBlocks := if adaptHas m 2 then clampNat 1 255 (fieldAt (m.word 1) 16 8) else ch.convBlocks
    divBlocks := if adaptHas m 2 then clampNat 1 255 (fieldAt (m.word 1) 24 8) else ch.divBlocks
    floor := if adaptHas m 2 then min Config.floorMax (m.word 4).toNat else ch.floor } := by
  unfold Channel.adaptTo Channel.superviseTo
  cases adaptHas m 0 <;> cases adaptHas m 1 <;> cases adaptHas m 2 <;> rfl

theorem State.adaptTo_keeps {s : State} {c : Chan} {l : Link} (h : (s.chan c).HeldBy l) (m : CmdMsg) :
    s.Keeps (s.updChan c (·.adaptTo m)) := by
  simp only [Channel.adaptTo_eq]
  refine .updService ⟨rfl, rfl, rfl, rfl, rfl, rfl, rfl, rfl, rfl, rfl, rfl, rfl⟩ (Life.runs_of_held h) ?_ rfl
  rintro ⟨h1, h2, h3, h4, h5, h6, h7, h8, h9, h10, h11, h12, h13, h14, h15, -⟩
  have range (lo hi n : Nat) (hl : lo ≤ hi) : lo ≤ clampNat lo hi n ∧ clampNat lo hi n ≤ hi := by
    unfold clampNat; omega
  refine ⟨h1, ?_, ?_, h4, h5, ?_, ?_, ?_, ?_, h10, h11, h12, h13, h14, h15, fun ho => absurd ho h.not_orphaned⟩
  · dsimp only; split; exacts [Filter.adaptTo_sound h2 _, h2]
  · dsimp only; split; exacts [Filter.adaptTo_sound h3 _, h3]
  · dsimp only; split; exacts [range 1 15 _ (by omega), h6]
  · dsimp only; split; exacts [range 1 255 _ (by omega), h7]
  · dsimp only; split; exacts [range 1 255 _ (by omega), h8]
  · dsimp only; split; exacts [min_le_left _ _, h9]

theorem EqCtx.Sound.of_taps {q r : EqCtx} (h : q.Sound) (ht : r.taps.length = r.ne)
    (hr : { r with taps := q.taps } = q) : r.Sound := by
  rw [← hr] at h
  obtain ⟨-, h⟩ := h
  exact ⟨ht, h⟩

theorem length_unityTaps (n : Nat) : (unityTaps n).length = n := by simp [unityTaps]

theorem State.clearTaps_keeps {s : State} {c : Chan} {l : Link} (h : (s.chan c).HeldBy l) (set : Nat) :
    s.Keeps (s.updChan c (·.clearTaps set)) := by
  refine .updEq (g := fun q => if hasBit set 2 then { q with taps := unityTaps q.ne } else q)
    ⟨rfl, rfl, rfl, rfl, rfl, rfl, rfl, rfl, rfl, rfl, rfl, rfl⟩ (Life.runs_of_held h) ?_ ?_
    (fun q => by split <;> rfl) fun q hq => ?_
  · rintro ⟨h1, h2, h3, h4, h5, h6, h7, h8, h9, h10, h11, -, -, h14, h15, -⟩
    refine ⟨h1, ?_, ?_, h4, h5, h6, h7, h8, h9, h10, h11, Nat.zero_le _, Nat.zero_le _, h14, h15,
      fun ho => absurd ho h.not_orphaned⟩
    · unfold Channel.clearTaps; dsimp only; split; exacts [Filter.zeroTaps_sound h2, h2]
    · unfold Channel.clearTaps; dsimp only; split; exacts [Filter.zeroTaps_sound h3, h3]
  · unfold Channel.clearTaps
    cases hasBit set 2 <;> simp
  · split
    · exact hq.of_taps (length_unityTaps _) rfl
    · exact hq

theorem State.setPlayout_keeps {s : State} {c : Chan} (h : (s.chan c).state.runs = true) {depth low : Nat}
    (hd : 1 ≤ depth ∧ depth ≤ 12) (hl : low ≤ 15) (fill : Fill) :
    s.Keeps (s.updChan c fun ch => { ch with play :=
        { ch.play with startDepth := depth, lowWater := low, fill := fill } }) := by
  refine .updService ⟨rfl, rfl, rfl, rfl, rfl, rfl, rfl, rfl, rfl, rfl, rfl, rfl⟩ h ?_ rfl
  rintro ⟨h1, h2, h3, h4, h5, h6, h7, h8, h9, h10, h11, h12, h13, h14, ⟨p1, -, -, p4⟩, h16⟩
  exact ⟨h1, h2, h3, h4, h5, h6, h7, h8, h9, h10, h11, h12, h13, h14, ⟨p1, hd, hl, p4⟩, h16⟩

/-- The parts of a record that no range speaks of may change freely. -/
theorem State.free_keeps {s : State} {c : Chan} (h : (s.chan c).state.runs = true) (f : Channel → Channel)
    (hf : { s.chan c with
      loopback := (f (s.chan c)).loopback, idle := (f (s.chan c)).idle, mask := (f (s.chan c)).mask
      flags := (f (s.chan c)).flags, cnt := (f (s.chan c)).cnt } = f (s.chan c)) : s.Keeps (s.updChan c f) := by
  refine .updService ?_ h ?_ ?_
  · rw [← hf]; exact ⟨rfl, rfl, rfl, rfl, rfl, rfl, rfl, rfl, rfl, rfl, rfl, rfl⟩
  · rw [← hf]; exact id
  · rw [← hf]

theorem EqCtx.poke_sound {q : EqCtx} (h : q.Sound) (i : Nat) (g : Tap × Tap → Tap × Tap) :
    EqCtx.Sound { q with taps := q.taps.modify i g } :=
  h.of_taps (by rw [List.length_modify]; exact h.1) rfl

theorem State.pokeTap_keeps {s : State} {c : Chan} {l : Link} (h : (s.chan c).HeldBy l) (i : Nat) (v : Tap) :
    s.Keeps (s.updChan c (·.pokeTap i v)) := by
  refine .updEq (g := fun q => if i < 96 ∨ i < 224 then
      q else { q with taps := q.taps.modify ((i - 224) / 2) (pokePair i v) })
    ?_ (Life.runs_of_held h) ?_ ?_ (fun q => by split <;> rfl) fun q hq => ?_
  · unfold Channel.pokeTap
    split_ifs <;> exact ⟨rfl, rfl, rfl, rfl, rfl, rfl, rfl, rfl, rfl, rfl, rfl, rfl⟩
  · rintro ⟨h1, h2, h3, hs⟩
    unfold Channel.pokeTap
    split_ifs
    · exact ⟨h1, h2.of_taps (by simp) id rfl rfl rfl, h3, hs⟩
    · exact ⟨h1, h2, h3.of_taps (by simp) id rfl rfl rfl, hs⟩
    · exact ⟨h1, h2, h3, hs⟩
  · unfold Channel.pokeTap
    by_cases h1 : i < 96
    · simp [h1]
    · by_cases h2 : i < 224 <;> simp [h1, h2]
  · split
    · exact hq
    · exact EqCtx.poke_sound hq _ _

theorem State.eqSet_keeps {s : State} {c : Chan} {l : Link} (h : (s.chan c).HeldBy l) {q : EqCtx}
    (hq : (s.chan c).eq = some q) (mode : EqMode) {tr tk : Nat} (h1 : 12 ≤ tr ∧ tr ≤ 30) (h2 : 12 ≤ tk ∧ tk ≤ 30) :
    s.Keeps (s.updChan c fun ch => { ch with eq := some { q with mode := mode, trainM := tr, trackM := tk } }) := by
  refine .updEq (g := fun q => { q with mode := mode, trainM := tr, trackM := tk })
    ⟨rfl, rfl, rfl, rfl, rfl, rfl, rfl, rfl, rfl, rfl, rfl, rfl⟩ (Life.runs_of_held h) id (by rw [hq]; rfl)
    (fun _ => rfl) ?_
  rintro q ⟨q1, q2, q3, q4, q5, q6, q7, -, -, q10⟩
  exact ⟨q1, q2, q3, q4, q5, q6, q7, h1, h2, q10⟩

/-- One input of a running job keeps the context within its ranges (R100 to R105). -/
theorem EqCtx.step_sound {q : EqCtx} (h : q.Sound) (u : Cplx) (refs : List (Nat × Nat)) : (q.step u refs).1.Sound := by
  have hpush : (q.push u).Sound := by
    obtain ⟨q1, q2, q3, q4, q5, q6⟩ := h
    exact ⟨q1, by simp [EqCtx.push, q2], q3, q4, q5, q6⟩
  unfold EqCtx.step
  dsimp only
  split
  · exact hpush
  · generalize ((q.push u).target refs).1 = t
    generalize q.push u = r at hpush
    obtain ⟨q1, q2, q3, q4, q5, q6, q7, q8, q9, q10⟩ := hpush
    obtain ⟨e1, e2⟩ := saturateSample_range (t.1 - r.output.1)
    obtain ⟨e3, e4⟩ := saturateSample_range (t.2 - r.output.2)
    refine ⟨?_, q2, q3, q4, q5, q6, q7, q8, q9, (toNat_pepsStep e1 e2 e3 e4 q10).2⟩
    unfold EqCtx.learn EqCtx.updatedTaps
    dsimp only
    split <;> simp [q1, q2]

theorem EqCtx.step_ne (q : EqCtx) (u : Cplx) (refs : List (Nat × Nat)) : (q.step u refs).1.ne = q.ne := by
  unfold EqCtx.step
  dsimp only
  split <;> rfl

end Sys2Proof.Machine

/-! SUPPORT. The stages of a channel's frame operation, but for the application of a retune: each keeps every invariant
and the lifecycle state of every channel. -/

namespace Sys2Proof.Machine

/-! ### Work on a running channel -/

/-- Work that keeps every invariant and the lifecycle state of every channel. -/
structure State.Works (s t : State) : Prop extends s.Keeps t where
  life : ∀ c, (t.chan c).state = (s.chan c).state

theorem State.Works.refl (s : State) : s.Works s := ⟨.refl s, fun _ => rfl⟩

theorem State.Works.trans {s t u : State} (h : s.Works t) (k : t.Works u) : s.Works u :=
  ⟨h.toKeeps.trans k.toKeeps, fun c => (k.life c).trans (h.life c)⟩

/-- What keeps the invariants and leaves the records alone. -/
theorem State.Works.of_channels {s t : State} (h : s.Keeps t) (hc : t.channels = s.channels) : s.Works t :=
  ⟨h, fun c => by rw [State.chan, hc, State.chan]⟩

theorem State.raise_works (s : State) (c : Chan) (k : MaskKind) (b : NoticeBody) : s.Works (s.raise c k b) :=
  .of_channels (s.raise_keeps c k b) (s.raise_sameButPorts c k b).channels

theorem State.watermark_works (s : State) (c : Chan) (d : Nat) : s.Works (s.watermark c d) := by
  refine .of_channels (s.watermark_keeps c d) ?_
  unfold State.watermark
  dsimp only
  split
  · exact (s.raise_sameButPorts c _ _).channels
  · split
    · exact (s.raise_sameButPorts c _ _).channels
    · rfl

/-- A running channel's new record with the same service, sound if it was, with the same EQ context. -/
theorem State.Works.setService {s : State} {c : Chan} {x : Channel} (h : (s.chan c).SameService x)
    (hr : (s.chan c).state.runs = true) (hs : (s.chan c).Sound → x.Sound) (heq : x.eq = (s.chan c).eq) :
    s.Works (s.setChan c x) :=
  ⟨.updService (f := fun _ => x) h hr hs heq, fun c' => by
    rw [State.chan_setChan_ite]
    split
    · rename_i hc; rw [hc]; exact h.state
    · rfl⟩

theorem State.Works.updService {s : State} {c : Chan} {f : Channel → Channel}
    (h : (s.chan c).SameService (f (s.chan c))) (hr : (s.chan c).state.runs = true)
    (hs : (s.chan c).Sound → (f (s.chan c)).Sound) (heq : (f (s.chan c)).eq = (s.chan c).eq) :
    s.Works (s.updChan c f) := .setService h hr hs heq

/-! ### Stage 1: the playout sample (R37 to R39) -/

/-- A record with another playout, counters and flags. -/
theorem Channel.Sound.of_play {a b : Channel} (h : a.Sound) (hp : b.play.Sound)
    (hb : { a with play := b.play, cnt := b.cnt, flags := b.flags } = b) : b.Sound := by
  rw [← hb]
  obtain ⟨h1, h2, h3, h4, h5, h6, h7, h8, h9, h10, h11, h12, h13, h14, -, h16⟩ := h
  exact ⟨h1, h2, h3, h4, h5, h6, h7, h8, h9, h10, h11, h12, h13, h14, hp, h16⟩

theorem Channel.Sound.play {ch : Channel} (h : ch.Sound) : ch.play.Sound := by
  obtain ⟨_, _, _, _, _, _, _, _, _, _, _, _, _, _, hp, _⟩ := h
  exact hp

/-- A running channel's new playout, counters and flags. -/
theorem State.Works.setPlay {s : State} {c : Chan} {x : Channel} (hr : (s.chan c).state.runs = true)
    (hx : { s.chan c with play := x.play, cnt := x.cnt, flags := x.flags } = x)
    (hp : (s.chan c).play.Sound → x.play.Sound) : s.Works (s.setChan c x) := by
  refine .setService ?_ hr (fun h => h.of_play (hp h.play) hx) ?_
  · rw [← hx]; exact ⟨rfl, rfl, rfl, rfl, rfl, rfl, rfl, rfl, rfl, rfl, rfl, rfl⟩
  · rw [← hx]

theorem State.blockStart_works {s : State} {c : Chan} (hr : (s.chan c).state.runs = true)
    (hp : (s.chan c).play.state = .playing) : s.Works (s.blockStart c).1 := by
  unfold State.blockStart
  dsimp only
  split
  · refine .trans ?_ (State.raise_works _ _ _ _)
    have h0 : s.Works { s with freeCount := s.freeCount + 1 } := .of_channels (.of_eq rfl) rfl
    exact h0.trans (.setPlay hr rfl fun h => Playout.underrun_sound h _)
  · split
    · rename_i b hb
      exact (State.Works.setPlay hr rfl fun h => Playout.startBlock_sound h hp b).trans (State.watermark_works _ _ _)
    · exact (State.Works.setPlay hr rfl fun h => Playout.startFill_sound h hp).trans (State.watermark_works _ _ _)

theorem State.playoutSample_works {s : State} {c : Chan} (hr : (s.chan c).state.runs = true) :
    s.Works (s.playoutSample c).1 := by
  unfold State.playoutSample
  dsimp only
  split
  · exact .refl s
  · rename_i b hp hc
    split
    · refine .setPlay hr rfl ?_
      rintro ⟨h1, h2, h3, h4, h5⟩
      exact ⟨by dsimp only; omega, h2, h3, h4, h5⟩
    · exact State.blockStart_works hr hp
  · rename_i hp hc
    exact State.blockStart_works hr hp

/-! ### Stages 2 to 5 (R28, R45 to R54) -/

theorem Channel.advanceHistory_sound {ch : Channel} (h : ch.Sound) : ch.advanceHistory.Sound := by
  obtain ⟨h1, h2, h3, h4, hrest⟩ := h
  refine ⟨h1, h2, h3, fun hn => ?_, hrest⟩
  obtain ⟨p1, p2, p3, p4, p5⟩ := h4 hn
  refine ⟨p1, p2, ?_, ?_, p5⟩
  · show (if ch.writePos + 1 ≥ ch.ringLength then 0 else ch.writePos + 1) < ch.ringLength
    split <;> omega
  · show (if ch.filled ≥ ch.ringLength then ch.filled else ch.filled + 1) ≤ ch.ringLength
    split <;> omega

/-- A write to a ring keeps the storage in its form. -/
theorem ringWrite_poolSound {s : State} (h : s.PoolSound) (ps : List Page) (p : Nat) (x : Sample) :
    (ringWrite s.pool ps p x).wf = true ∧ ∀ cell ∈ ringWrite s.pool ps p x, cell.1 < 32768 := by
  obtain ⟨hw, hb⟩ := h
  exact ⟨ringWrite_wf hw ps p x, fun cell hc => (mem_ringWrite hw hc).elim (hb cell) id⟩

/-- A change of the pool that keeps its form. -/
theorem State.Keeps.setPool (s : State) (m : Memory)
    (h : s.PoolSound → m.wf = true ∧ ∀ cell ∈ m, cell.1 < 32768) : s.Keeps { s with pool := m } :=
  .of_traffic ⟨⟨rfl, h, rfl, rfl, rfl, fun _ => .refl _⟩, rfl, rfl, rfl⟩ rfl

theorem State.writeHistory_works {s : State} {c : Chan} (hr : (s.chan c).state.runs = true) (x : Sample) :
    s.Works (s.writeHistory c x) := by
  have hset : s.Works (s.setChan c (s.chan c).advanceHistory) :=
    .setService ⟨rfl, rfl, rfl, rfl, rfl, rfl, rfl, rfl, rfl, rfl, rfl, rfl⟩ hr Channel.advanceHistory_sound rfl
  exact hset.trans (.of_channels (.setPool _ _ fun h => ringWrite_poolSound h _ _ x) rfl)

theorem State.drive_works (s : State) (slot : Option Slot) (x : Sample) : s.Works (s.drive slot x) := by
  cases slot with
  | none => exact .refl s
  | some k => exact .of_channels (.of_eq rfl) rfl

/-- The estimate, the error and the update change the echo filters, the flags and the counters. -/
theorem Channel.echo_eq (ch : Channel) (m : Memory) (y : Sample) :
    ∃ flags cnt, ch.echo m y = { ch with
      near := ch.near.adapt (ch.error m y) (ch.nearAge m), far := ch.far.adapt (ch.error m y) (ch.farAge m)
      flags := flags, cnt := cnt } := by
  unfold Channel.echo Channel.noteClip Channel.noteClamp
  dsimp only
  split <;> split <;> exact ⟨_, _, rfl⟩

theorem Channel.echo_power_sound {ch : Channel} (h : ch.Sound) (m : Memory) (y : Sample) :
    ((ch.echo m y).power y (ch.error m y)).Sound := by
  obtain ⟨flags, cnt, he⟩ := ch.echo_eq m y
  obtain ⟨e1, e2⟩ := saturateSample_range (ch.difference m y)
  obtain ⟨y1, y2⟩ := sample_range y
  rw [he]
  obtain ⟨h1, h2, h3, h4, h5, h6, h7, h8, h9, h10, h11, h12, h13, h14, h15, h16⟩ := h
  refine ⟨h1, Filter.adapt_sound h2 _ _, Filter.adapt_sound h3 _ _, h4, h5, h6, h7, h8, h9,
      (toNat_powerStep y1 y2 h10).2,
    (toNat_powerStep e1 e2 h11).2, h12, h13, h14, h15, fun ho => ?_⟩
  obtain ⟨o1, o2, o3⟩ := h16 ho
  refine ⟨?_, ?_, o3⟩
  · show (ch.near.adapt _ _).gear.adapts = false
    rw [Filter.adapt_gear]; exact o1
  · show (ch.far.adapt _ _).gear.adapts = false
    rw [Filter.adapt_gear]; exact o2

theorem State.echo_works {s : State} {c : Chan} (hr : (s.chan c).state.runs = true) (m : Memory) (y : Sample) :
    s.Works (s.updChan c fun ch => (ch.echo m y).power y ((s.chan c).error m y)) := by
  refine .updService ?_ hr (fun h => Channel.echo_power_sound h m y) ?_ <;> obtain ⟨flags, cnt, he⟩ :=
      (s.chan c).echo_eq m y <;>
    rw [he]
  · exact ⟨rfl, rfl, rfl, rfl, rfl, rfl, rfl, rfl, rfl, rfl, rfl, rfl⟩
  · rfl

/-! ### The block boundary work, but for the retune (R53, R64 to R67, R80 to R83) -/

/-- The rx queue of a channel: at most 8 entries, each due to somebody, and to the holder and the copy destination
alone (R81). -/
def Channel.QueueSound (ch : Channel) : Prop :=
  ch.rxq.length ≤ Config.rxDepth ∧
    ∀ e ∈ ch.rxq, e.due ≠ [] ∧ e.due.Nodup ∧ ∀ l ∈ e.due, ch.holder = some l ∨ ch.copy = some l

theorem Channel.RolesSound.queue {ch : Channel} {down : Link → Bool} (h : ch.RolesSound down) : ch.QueueSound := by
  obtain ⟨_, _, _, _, _, _, _, _, _, h10, h11⟩ := h
  exact ⟨h10, h11⟩

/-- A record with the same service but for its rx queue, which is sound. -/
theorem Channel.RolesSound.with_queue {a b : Channel} {down : Link → Bool} (h : a.RolesSound down)
    (hb : a.SameService { b with rxq := a.rxq }) (hq : b.QueueSound) : b.RolesSound down := by
  obtain ⟨h1, h2, h3, h4, h5, h6, h7, h8, h9, -, -⟩ := hb.roles h
  exact ⟨h1, h2, h3, h4, h5, h6, h7, h8, h9, hq.1, hq.2⟩

/-- A change of a running channel's record that leaves alone what its accounts and roles read but for its rx queue. -/
theorem Channel.Change.of_queue {a b : Channel} {down : Link → Bool} (hb : a.SameService { b with rxq := a.rxq })
    (hr : a.state.runs = true) (hs : a.Sound → b.Sound) (heq : b.eq = a.eq)
    (hq : a.RolesSound down → b.QueueSound) : a.Change down b where
  toMove := .of_runs hb.state hr hs (fun h => h.with_queue hb (hq h)) heq
  account := ⟨hb.slot, hb.charge, hb.pages, hb.nn, hb.nf, congrArg (Option.map Retune.nf) hb.retune⟩

/-- The holder and the copy destination are two links. -/
theorem Channel.RolesSound.recipients_nodup {ch : Channel} {down : Link → Bool} (h : ch.RolesSound down) :
    ch.recipients.Nodup := by
  obtain ⟨_, _, h3, _⟩ := h
  unfold Channel.recipients
  cases hh : ch.holder with
  | none => cases ch.copy <;> simp
  | some i =>
    cases hc : ch.copy with
    | none => simp
    | some j =>
      have := (h3 i hh).2.1
      rw [hc] at this
      simpa [eq_comm] using this

theorem Channel.mem_recipients {ch : Channel} {l : Link} :
    l ∈ ch.recipients ↔ ch.holder = some l ∨ ch.copy = some l := by
  simp [Channel.recipients]

/-- A closed block's entry joins the queue as its newest, the oldest leaving a full one (R82, R83). -/
theorem Channel.queueRx_rxq (ch : Channel) (e : RxEntry) :
    (ch.queueRx e).rxq = (if ch.rxq.length < Config.rxDepth then ch.rxq else ch.rxq.drop 1) ++ [e] := by
  unfold Channel.queueRx
  split <;> rfl

theorem Channel.queueRx_queueSound {ch : Channel} {e : RxEntry} (h : ch.QueueSound) (hd : e.due ≠ []) (hn : e.due.Nodup)
    (hl : ∀ l ∈ e.due, ch.holder = some l ∨ ch.copy = some l) : (ch.queueRx e).QueueSound := by
  obtain ⟨h1, h2⟩ := h
  have hholder : (ch.queueRx e).holder = ch.holder := by unfold Channel.queueRx; split <;> rfl
  have hcopy : (ch.queueRx e).copy = ch.copy := by unfold Channel.queueRx; split <;> rfl
  refine ⟨?_, fun x hx => ?_⟩
  · rw [Channel.queueRx_rxq]
    have : (if ch.rxq.length < Config.rxDepth then ch.rxq else ch.rxq.drop 1).length ≤ 7 := by
      split <;> simp only [Config.rxDepth] at *
      · omega
      · rw [List.length_drop]; omega
    rw [List.length_append]
    exact Nat.succ_le_succ this
  · rw [hholder, hcopy]
    rw [Channel.queueRx_rxq] at hx
    rcases List.mem_append.mp hx with hx | hx
    · split at hx
      · exact h2 x hx
      · exact h2 x (List.mem_of_mem_drop hx)
    · rw [List.mem_singleton.mp hx]
      exact ⟨hd, hn, hl⟩

/-- The record with the assembling block closed: it is empty, and the next rx sequence number is used (R80). -/
def Channel.closed (ch : Channel) : Channel := { ch with asm := [], nextRx := ch.nextRx + 1 }

theorem Channel.closed_sound {ch : Channel} (h : ch.Sound) : ch.closed.Sound := by
  obtain ⟨h1, h2, h3, h4, h5, h6, h7, h8, h9, h10, h11, h12, h13, -, h15⟩ := h
  exact ⟨h1, h2, h3, h4, h5, h6, h7, h8, h9, h10, h11, h12, h13, Nat.zero_le _, h15⟩

/-- Everything the close of an rx block does: the record changes, and a full queue's drop is told. -/
theorem State.closeRxBlock_cases (s : State) (c : Chan) (samples : List Sample) :
    ((s.chan c).recipients = [] ∧ s.closeRxBlock c samples = s.setChan c (s.chan c).closed) ∨
    ((s.chan c).recipients ≠ [] ∧ ∃ t, t = s.setChan c ((s.chan c).closed.queueRx
        { seq := (s.chan c).nextRx, samples := samples, due := (s.chan c).recipients }) ∧
      (s.closeRxBlock c samples = t ∨ ∃ b, s.closeRxBlock c samples = t.raise c .rxOverrun b)) := by
  unfold State.closeRxBlock
  dsimp only
  split
  · exact .inl ⟨‹_›, rfl⟩
  · refine .inr ⟨‹_›, _, rfl, ?_⟩
    split
    · split
      · exact .inl rfl
      · exact .inr ⟨_, rfl⟩
    · exact .inl rfl

theorem State.closeRxBlock_works {s : State} {c : Chan} (hr : (s.chan c).state.runs = true) (samples : List Sample) :
    s.Works (s.closeRxBlock c samples) := by
  rcases s.closeRxBlock_cases c samples with ⟨-, h⟩ | ⟨hd, t, ht, h⟩
  · rw [h]
    exact .setService ⟨rfl, rfl, rfl, rfl, rfl, rfl, rfl, rfl, rfl, rfl, rfl, rfl⟩ hr Channel.closed_sound rfl
  · have hset : s.Works t := by
      rw [ht]
      generalize hx : (s.chan c).closed.queueRx
        { seq := (s.chan c).nextRx, samples := samples, due := (s.chan c).recipients } = x
      have hform : { (s.chan c).closed with rxq := x.rxq, flags := x.flags, cnt := x.cnt } = x := by
        rw [← hx]; unfold Channel.queueRx; split <;> rfl
      refine ⟨.setChan (.of_queue ?_ hr (fun h => ?_) ?_ fun h => ?_) fun l _ hl => ?_, fun c' => ?_⟩
      · rw [← hform]; exact ⟨rfl, rfl, rfl, rfl, rfl, rfl, rfl, rfl, rfl, rfl, rfl, rfl⟩
      · rw [← hform]; exact (Channel.closed_sound h :)
      · rw [← hform]; rfl
      · rw [← hx]
        exact Channel.queueRx_queueSound h.queue hd h.recipients_nodup fun l hl => Channel.mem_recipients.mp hl
      · rw [← hform]; exact hl
      · rw [State.chan_setChan_ite]
        split
        · rename_i hc; rw [hc, ← hform]; rfl
        · rfl
    rcases h with h | ⟨b, h⟩ <;> rw [h]
    · exact hset
    · exact hset.trans (State.raise_works _ _ _ _)

theorem State.leakStep_works {s : State} {c : Chan} (hr : (s.chan c).state.runs = true) :
    s.Works (s.updChan c Channel.leakStep) := by
  refine .updService ⟨rfl, rfl, rfl, rfl, rfl, rfl, rfl, rfl, rfl, rfl, rfl, rfl⟩ hr ?_ rfl
  rintro ⟨h1, h2, h3, h4, h5, h6, h7, h8, h9, h10, h11, h12, h13, h14, h15, h16⟩
  refine ⟨h1, Filter.leaked_sound h2, Filter.leaked_sound h3, h4, h5, h6, h7, h8, h9, h10, h11, h12, h13, h14, h15,
    fun ho => ?_⟩
  obtain ⟨o1, o2, o3⟩ := h16 ho
  refine ⟨?_, ?_, o3⟩
  · show ((s.chan c).near.leaked).gear.adapts = false
    rw [Filter.leaked_gear]; exact o1
  · show ((s.chan c).far.leaked).gear.adapts = false
    rw [Filter.leaked_gear]; exact o2

/-- The convergence step changes the gears, the convergence run and the flags (R64, R65). -/
theorem Channel.convergeStep_eq (ch : Channel) : ∃ flags, ch.convergeStep = { ch with
    near := if ch.converges && ch.movesNear then { ch.near with gear := .track } else ch.near
    far := if ch.converges && ch.movesFar then { ch.far with gear := .track } else ch.far
    convRun := if ch.converges then 0 else ch.nextConvRun, flags := flags } := by
  unfold Channel.convergeStep
  cases hc : ch.converges <;> exact ⟨_, rfl⟩

/-- The divergence step changes the filters, the runs, the flags and the counters (R66, R67). -/
theorem Channel.divergeStep_eq (ch : Channel) : ∃ flags cnt, ch.divergeStep = { ch with
    near := if ch.diverges then ch.near.retrain else ch.near, far := if ch.diverges then ch.far.retrain else ch.far
    convRun := if ch.diverges then 0 else ch.convRun, divRun := if ch.diverges then 0 else ch.nextDivRun
    flags := flags, cnt := cnt } := by
  unfold Channel.divergeStep
  cases hc : ch.diverges <;> exact ⟨_, _, rfl⟩

theorem Gear.adapts_train_of {g : Gear} (h : g.adapts = false) : (g == .train) = false := by
  cases g with
  | off | hold => rfl
  | train | track => cases h

/-- A channel in the orphan hold judges neither convergence nor divergence (R68). -/
theorem Channel.Holds.judges_nothing {ch : Channel} (h : ch.Holds) :
    ch.converges = false ∧ ch.nextConvRun = 0 ∧ ch.diverges = false ∧ ch.nextDivRun = 0 := by
  obtain ⟨h1, h2, -, -⟩ := h
  have hc : ch.evaluatesConvergence = false := by
    simp [Channel.evaluatesConvergence, Filter.training, Gear.adapts_train_of h1, Gear.adapts_train_of h2]
  have hd : ch.evaluatesDivergence = false := by simp [Channel.evaluatesDivergence, Filter.adapting, h1, h2]
  simp [Channel.converges, Channel.nextConvRun, Channel.diverges, Channel.nextDivRun, hc, hd]

/-- A convergence run that does not complete stays below conv_blocks. -/
theorem Channel.nextConvRun_lt {ch : Channel} (hp : 1 ≤ ch.convBlocks) (h : ch.converges = false) :
    ch.nextConvRun < ch.convBlocks := by
  unfold Channel.converges at h
  by_cases he : (ch.evaluatesConvergence && ch.convergenceHolds) = true
  · simpa [he] using h
  · rw [Channel.nextConvRun, if_neg he]; omega

theorem Channel.nextDivRun_lt {ch : Channel} (hp : 1 ≤ ch.divBlocks) (h : ch.diverges = false) :
    ch.nextDivRun < ch.divBlocks := by
  unfold Channel.diverges at h
  by_cases he : (ch.evaluatesDivergence && ch.divergenceHolds) = true
  · simpa [he] using h
  · rw [Channel.nextDivRun, if_neg he]; omega

theorem Channel.convergeStep_sound {ch : Channel} (h : ch.Sound) : ch.convergeStep.Sound := by
  obtain ⟨flags, he⟩ := ch.convergeStep_eq
  rw [he]
  obtain ⟨h1, h2, h3, h4, h5, h6, h7, h8, h9, h10, h11, h12, h13, h14, h15, h16⟩ := h
  refine ⟨h1, Filter.toTrack_sound h2 fun hb => ?_, Filter.toTrack_sound h3 fun hb => ?_, h4, h5, h6, h7, h8, h9, h10,
    h11, ?_, h13, h14, h15, fun ho => ?_⟩
  · have := (Bool.and_eq_true_iff.mp hb).2
    exact eq_of_beq (Bool.and_eq_true_iff.mp this).2
  · have := (Bool.and_eq_true_iff.mp hb).2
    exact eq_of_beq (Bool.and_eq_true_iff.mp this).2
  · dsimp only
    cases hc : ch.converges with
    | true => simp
    | false => have := Channel.nextConvRun_lt h7.1 hc; simp; omega
  · obtain ⟨hc, hr, -, -⟩ := Channel.Holds.judges_nothing (h16 ho)
    obtain ⟨o1, o2, o3, o4⟩ := h16 ho
    unfold Channel.Holds
    simp only [hc, hr]
    exact ⟨o1, o2, rfl, o4⟩

theorem Channel.divergeStep_sound {ch : Channel} (h : ch.Sound) : ch.divergeStep.Sound := by
  obtain ⟨flags, cnt, he⟩ := ch.divergeStep_eq
  rw [he]
  obtain ⟨h1, h2, h3, h4, h5, h6, h7, h8, h9, h10, h11, h12, h13, h14, h15, h16⟩ := h
  refine ⟨h1, ?_, ?_, h4, h5, h6, h7, h8, h9, h10, h11, ?_, ?_, h14, h15, fun ho => ?_⟩
  · dsimp only; split; exacts [Filter.retrain_sound h2, h2]
  · dsimp only; split; exacts [Filter.retrain_sound h3, h3]
  · dsimp only; split <;> omega
  · dsimp only
    cases hc : ch.diverges with
    | true => simp
    | false => have := Channel.nextDivRun_lt h8.1 hc; simp; omega
  · obtain ⟨-, -, hd, hr⟩ := Channel.Holds.judges_nothing (h16 ho)
    obtain ⟨o1, o2, o3, o4⟩ := h16 ho
    unfold Channel.Holds
    simp only [hd, hr]
    exact ⟨o1, o2, o3, rfl⟩

theorem State.convergeStep_works {s : State} {c : Chan} (hr : (s.chan c).state.runs = true) :
    s.Works (s.convergeStep c) := by
  have hset : s.Works (s.setChan c (s.chan c).convergeStep) := by
    refine .setService ?_ hr Channel.convergeStep_sound ?_ <;> obtain ⟨flags, he⟩ :=
        (s.chan c).convergeStep_eq <;> rw [he]
    · exact ⟨rfl, rfl, rfl, rfl, rfl, rfl, rfl, rfl, rfl, rfl, rfl, rfl⟩
  unfold State.convergeStep
  dsimp only
  split
  · exact hset.trans (State.raise_works _ _ _ _)
  · exact hset

theorem State.divergeStep_works {s : State} {c : Chan} (hr : (s.chan c).state.runs = true) :
    s.Works (s.divergeStep c) := by
  have hset : s.Works (s.setChan c (s.chan c).divergeStep) := by
    refine .setService ?_ hr Channel.divergeStep_sound ?_ <;> obtain ⟨flags, cnt, he⟩ := (s.chan c).divergeStep_eq <;>
      rw [he]
    · exact ⟨rfl, rfl, rfl, rfl, rfl, rfl, rfl, rfl, rfl, rfl, rfl, rfl⟩
  unfold State.divergeStep
  dsimp only
  split
  · exact hset.trans (State.raise_works _ _ _ _)
  · exact hset

theorem State.watchStep_works (s : State) (c : Chan) (seq : Seq) : s.Works (s.watchStep c seq) :=
  .of_channels (s.watchStep_keeps c seq) rfl

theorem State.appendAsm_works {s : State} {c : Chan} (hr : (s.chan c).state.runs = true) {block : List Sample}
    (hb : block.length ≤ 15) : s.Works (s.updChan c fun ch => { ch with asm := block }) := by
  refine .updService ⟨rfl, rfl, rfl, rfl, rfl, rfl, rfl, rfl, rfl, rfl, rfl, rfl⟩ hr ?_ rfl
  rintro ⟨h1, h2, h3, h4, h5, h6, h7, h8, h9, h10, h11, h12, h13, -, h15⟩
  exact ⟨h1, h2, h3, h4, h5, h6, h7, h8, h9, h10, h11, h12, h13, hb, h15⟩

end Sys2Proof.Machine

/-! SUPPORT. Operations that move slots, pages, echo budget and equalizer budget: OPEN, the context clear, CLOSE,
SET_NEAR, SET_FAR, the application of a retune, EQ_OPEN and EQ_CLOSE. Each leaves the resources accounted for. -/

namespace Sys2Proof.Machine

/-! ### One record changed -/

theorem allChans_nodup : allChans.Nodup := List.nodup_finRange 48

theorem mem_allChans (c : Chan) : c ∈ allChans := List.mem_finRange c

/-- A sum over the channels is the part of one channel and that of the others. -/
theorem sum_allChans (f : Chan → Nat) (c : Chan) : (allChans.map f).sum = f c + ((allChans.erase c).map f).sum := by
  rw [((List.perm_cons_erase (mem_allChans c)).map f).sum_eq]; rfl

/-- A function changed at one channel has the same sum over the other channels. -/
theorem sum_erase_congr {f g : Chan → Nat} {c : Chan} (h : ∀ c', c' ≠ c → g c' = f c') :
    ((allChans.erase c).map g).sum = ((allChans.erase c).map f).sum := by
  congr 1
  exact List.map_congr_left fun c' hc' => h c' ((allChans_nodup.mem_erase_iff.mp hc').1)

/-- One record of a sound state replaced by one that is sound with the pages, the charge and the slot it takes over. -/
theorem State.AccountsSound.of_update {s t : State} {c : Chan} {b : Channel} (hs : s.AccountsSound)
    (hc : ∀ c', t.chan c' = if c' = c then b else s.chan c')
    (hpages : (t.freeList ++ b.pages).Perm (s.freeList ++ (s.chan c).pages))
    (hused : t.echoUsed + (s.chan c).charge = s.echoUsed + b.charge) (hle : t.echoUsed ≤ Config.echoBudget)
    (hslots : ∀ (k : Slot) (c' : Chan), t.slotMap[k.val] = some c' ↔ (t.chan c').slot = some k)
    (hfree : b.state = .free → b.pages = [] ∧ b.charge = 0 ∧ b.slot = none ∧ b.retune = none)
    (hopen : b.state = .opening → b.retune = none)
    (hbusy : b.state ≠ .free → b.slot.isSome = true ∧ b.charge = b.owed) : t.AccountsSound := by
  obtain ⟨h1, h2, h3, h4, h5, h6, h7, h8⟩ := hs
  have hperm : (t.freeList ++ allChans.flatMap fun c' => (t.chan c').pages).Perm
      (s.freeList ++ allChans.flatMap fun c' => (s.chan c').pages) := by
    have split (u : State) : (u.freeList ++ allChans.flatMap fun c' => (u.chan c').pages).Perm
        ((u.freeList ++ (u.chan c).pages) ++ (allChans.erase c).flatMap fun c' => (u.chan c').pages) := by
      rw [List.append_assoc]
      exact ((List.perm_cons_erase (mem_allChans c)).flatMap_right fun c' => (u.chan c').pages).append_left _
    have hrest : ((allChans.erase c).flatMap fun c' => (t.chan c').pages) =
        (allChans.erase c).flatMap fun c' => (s.chan c').pages := by
      refine List.flatMap_congr fun c' hc' => ?_
      rw [hc, if_neg (allChans_nodup.mem_erase_iff.mp hc').1]
    have hb : t.chan c = b := by rw [hc, if_pos rfl]
    refine (split t).trans (.trans ?_ (split s).symm)
    rw [hrest, hb]
    exact hpages.append_right _
  have record {P : Channel → Prop} (hcb : P b) (ho : ∀ c', P (s.chan c')) (c' : Chan) : P (t.chan c') := by
    rw [hc]; split; exacts [hcb, ho c']
  refine ⟨record (P := fun x => x.state = .free → x.pages = [] ∧ x.charge = 0 ∧ x.slot = none ∧ x.retune =
      none) hfree h1,
    record (P := fun x => x.state = .opening → x.retune = none) hopen h2,
    record (P := fun x => x.state ≠ .free → x.slot.isSome = true ∧ x.charge = x.owed) hbusy h3, hslots,
    hperm.nodup_iff.mpr h5, hperm.length_eq.trans h6, ?_, hle⟩
  have hs' := sum_allChans (fun c' => (s.chan c').charge) c
  have ht' := sum_allChans (fun c' => (t.chan c').charge) c
  rw [sum_erase_congr (f := fun c' => (s.chan c').charge) fun c' hne => by simp only [hc, if_neg hne]] at ht'
  simp only [hc, if_true] at hs' ht' ⊢
  omega

theorem State.AccountsSound.charge_le {s : State} (h : s.AccountsSound) (c : Chan) :
    (s.chan c).charge ≤ s.echoUsed := by
  obtain ⟨-, -, -, -, -, -, h7, -⟩ := h
  have := sum_allChans (fun c' => (s.chan c').charge) c
  omega

/-- One record's EQ context changed, with the budget in use. -/
theorem State.EqSound.of_update {s t : State} {c : Chan} {b : Channel} (hs : s.EqSound)
    (hc : ∀ c', t.chan c' = if c' = c then b else s.chan c')
    (hports : ∀ l, ∀ j ∈ (t.port l).jobs, j.state = .queued → j ∈ (s.port l).jobs)
    (hempty : ∀ l, (s.port l).jobs = [] → (t.port l).jobs = []) (hclear : t.clear = s.clear)
    (hengine : ∀ e, t.engine = some e → ∃ e', s.engine = some e' ∧ e'.chan = e.chan ∧
        (e.closed = false → e'.closed = false))
    (hfree : b.state = .free → b = Channel.free) (hopen : b.state = .opening → b.eq = none)
    (hq : ∀ q, b.eq = some q → q.Sound) (hused : t.eqUsed + (s.chan c).eqTaps = s.eqUsed + b.eqTaps)
    (hle : t.eqUsed ≤ Config.eqBudget)
    (hqueued : ∀ l, ∀ j ∈ (t.port l).jobs, j.state = .queued → chanOf j.chan = some c → (s.chan c).HeldBy l →
      (s.chan c).eq.isSome = true → b.HeldBy l ∧ b.eq.isSome = true)
    (hruns : ∀ e, t.engine = some e → e.closed = false → e.chan = c → (s.chan c).state.runs = true →
      (s.chan c).eq.isSome = true → b.state.runs = true ∧ b.eq.isSome = true) : t.EqSound := by
  obtain ⟨h1, h2, h3, h4, h5, h6, h7, h8⟩ := hs
  have record {P : Channel → Prop} (hcb : P b) (ho : ∀ c', P (s.chan c')) (c' : Chan) : P (t.chan c') := by
    rw [hc]; split; exacts [hcb, ho c']
  refine ⟨record (P := fun x => x.state = .free → x = Channel.free) hfree h1,
    record (P := fun x => x.state = .opening → x.eq = none) hopen h2,
    record (P := fun x => ∀ q, x.eq = some q → q.Sound) hq h3, ?_, hle, fun l j hj hs' => ?_, fun e he hcl => ?_,
    fun hcl => ?_⟩
  · have hs' := sum_allChans (fun c' => (s.chan c').eqTaps) c
    have ht' := sum_allChans (fun c' => (t.chan c').eqTaps) c
    rw [sum_erase_congr (f := fun c' => (s.chan c').eqTaps) fun c' hne => by simp only [hc, if_neg hne]] at ht'
    simp only [hc, if_true] at hs' ht' ⊢
    omega
  · obtain ⟨c', hjc, hh, hsome⟩ := h6 l j (hports l j hj hs') hs'
    refine ⟨c', hjc, ?_⟩
    rw [hc]
    split
    · rename_i h; subst h; exact hqueued l j hj hs' hjc hh hsome
    · exact ⟨hh, hsome⟩
  · obtain ⟨e', he', hch, hcl'⟩ := hengine e he
    obtain ⟨hr, hsome⟩ := h7 e' he' (hcl' hcl)
    rw [hch] at hr hsome
    rw [hc]
    split
    · rename_i h; rw [h] at hr hsome; exact hruns e he hcl h hr hsome
    · exact ⟨hr, hsome⟩
  · rw [hclear] at hcl
    obtain ⟨he, hj⟩ := h8 hcl
    refine ⟨?_, fun l => hempty l (hj l)⟩
    cases ht : t.engine with
    | none => rfl
    | some e =>
      obtain ⟨e', he', -⟩ := hengine e ht
      rw [he] at he'
      cases he'

theorem State.EqSound.eqTaps_le {s : State} (h : s.EqSound) (c : Chan) : (s.chan c).eqTaps ≤ s.eqUsed := by
  obtain ⟨-, -, -, h4, -⟩ := h
  have := sum_allChans (fun c' => (s.chan c').eqTaps) c
  omega

/-- The slots stay in agreement where no record's slot changes. -/
theorem State.slots_of_same {s t : State} (h : s.AccountsSound) {c : Chan} {b : Channel}
    (hc : ∀ c', t.chan c' = if c' = c then b else s.chan c') (hb : b.slot = (s.chan c).slot)
    (hm : t.slotMap = s.slotMap) (k : Slot) (c' : Chan) : t.slotMap[k.val] = some c' ↔ (t.chan c').slot = some k := by
  obtain ⟨-, -, -, h4, -⟩ := h
  rw [hm, hc]
  split
  · rename_i hcc; rw [hb, ← hcc]; exact h4 k c'
  · exact h4 k c'

/-- A running channel's record replaced by one with other sizes, pages and charge, and the pools with it. -/
theorem State.Keeps.of_resize {s t : State} {c : Chan} {b : Channel} (hr : (s.chan c).state.runs = true)
    (hc : ∀ c', t.chan c' = if c' = c then b else s.chan c') (hlinks : s.SameLinks t) (hm : t.slotMap = s.slotMap)
    (hstate : b.state = (s.chan c).state) (hholder : b.holder = (s.chan c).holder) (hslot : b.slot = (s.chan c).slot)
    (heq : b.eq = (s.chan c).eq) (hpages : (t.freeList ++ b.pages).Perm (s.freeList ++ (s.chan c).pages))
    (hsound : (s.chan c).Sound → b.Sound) (hroles : (s.chan c).RolesSound s.isDown → b.RolesSound s.isDown)
    (howed : b.charge = b.owed)
    (hused : s.AccountsSound → (s.chan c).charge = (s.chan c).owed → (s.chan c).charge ≤ s.echoUsed →
      t.echoUsed + (s.chan c).charge = s.echoUsed + b.charge ∧ t.echoUsed ≤ Config.echoBudget) : s.Keeps t := by
  have hnf : (s.chan c).state ≠ .free := ((Life.runs_iff _).mp hr).1
  have hno : (s.chan c).state ≠ .opening := ((Life.runs_iff _).mp hr).2
  refine .of_moves hlinks (fun hs => ?_) (fun c' => ?_) fun l c' _ hh => ?_
  · have hs' := hs
    obtain ⟨-, -, h3, -⟩ := hs'
    obtain ⟨h3s, h3c⟩ := h3 c hnf
    obtain ⟨hu, hle⟩ := hused hs h3c (hs.charge_le c)
    exact hs.of_update hc hpages hu hle (State.slots_of_same hs hc hslot hm) (fun h => absurd (hstate ▸ h) hnf)
      (fun h => absurd (hstate ▸ h) hno) fun _ => ⟨hslot ▸ h3s, howed⟩
  · rw [hc]
    split
    · rename_i hcc; rw [hcc]; exact .of_runs hstate hr hsound hroles heq
    · exact .refl _ _
  · rw [hc]
    split
    · rename_i hcc
      subst hcc
      rw [Channel.HeldBy, hstate, hholder]
      exact hh
    · exact hh

/-! ### The pools in a normal form -/

/-- The state with another echo budget in use and another free list. -/
def State.withPools (s : State) (used : Nat) (free : List Page) : State := { s with echoUsed := used, freeList := free }

@[simp] theorem State.chan_withPools (s : State) (used : Nat) (free : List Page) (c : Chan) :
    (s.withPools used free).chan c = s.chan c := rfl

@[simp] theorem State.setChan_withPools (s : State) (used : Nat) (free : List Page) (c : Chan) (x : Channel) :
    (s.withPools used free).setChan c x = (s.setChan c x).withPools used free := rfl

@[simp] theorem State.withPools_withPools (s : State) (u u' : Nat) (f f' : List Page) :
    (s.withPools u f).withPools u' f' = s.withPools u' f' := rfl

theorem State.recharge_eq (s : State) (c : Chan) (n : Nat) :
    s.recharge c n = (s.setChan c { s.chan c with charge :=
        n }).withPools (s.echoUsed - (s.chan c).charge + n) s.freeList :=
  rfl

theorem State.grantPages_eq (s : State) (c : Chan) (k : Nat) : s.grantPages c k =
    (s.setChan c { s.chan c with pages := (s.chan c).pages ++ s.freeList.take k }).withPools s.echoUsed
      (s.freeList.drop k) := rfl

theorem State.releasePages_eq (s : State) (c : Chan) (k : Nat) : s.releasePages c k =
    (s.setChan c { s.chan c with pages := (s.chan c).pages.take ((s.chan c).pages.length - k) }).withPools s.echoUsed
      (s.freeList ++ (s.chan c).pages.drop ((s.chan c).pages.length - k)) := rfl

@[simp] theorem State.echoUsed_withPools (s : State) (u : Nat) (f : List Page) : (s.withPools u f).echoUsed = u := rfl

@[simp] theorem State.freeList_withPools (s : State) (u : Nat) (f : List Page) : (s.withPools u f).freeList = f := rfl

@[simp] theorem State.updChan_withPools (s : State) (u : Nat) (f : List Page) (c : Chan) (g : Channel → Channel) :
    (s.withPools u f).updChan c g = (s.setChan c (g (s.chan c))).withPools u f := rfl

/-! ### SET_NEAR (R15) -/

/-- A near count of at most one page does not change the page count. -/
theorem Sizes.pageCount_near {nn nn' nf d : Nat} (h : nn ≤ 64) (h' : nn' ≤ 64) :
    ({ nn := nn, nf := nf, d := d } : Sizes).pageCount = ({ nn := nn', nf := nf, d := d } : Sizes).pageCount := by
  simp only [Sizes.pageCount, Config.pageSize]
  omega

theorem effectiveNear_range (n : Nat) : effectiveNear n % 8 = 0 ∧ effectiveNear n ≤ 64 :=
  ⟨Nat.mod_eq_zero_of_dvd (dvd_roundUpTo (by decide) n), roundUpTo_le 8 64 n⟩

theorem effectiveFar_range (n : Nat) : effectiveFar n % 16 = 0 ∧ effectiveFar n ≤ 128 :=
  ⟨Nat.mod_eq_zero_of_dvd (dvd_roundUpTo (by decide) n), roundUpTo_le 16 128 n⟩

/-- The effective sizes of R6 lie in its ranges. -/
theorem effectiveSizes_sound (nn nf d : Nat) :
    SizesSound (effectiveSizes nn nf d).nn (effectiveSizes nn nf d).nf (effectiveSizes nn nf d).d := by
  obtain ⟨h1, h2⟩ := effectiveNear_range nn
  obtain ⟨h3, h4⟩ := effectiveFar_range nf
  exact ⟨h1, h2, h3, h4, effectiveDelay_add_le (h4.trans (by decide)) d, fun h => if_pos h⟩

theorem length_resizeTaps (n : Nat) (ts : List Tap) : (resizeTaps n ts).length = n := by
  simp [resizeTaps]; omega

theorem Channel.resizeNear_sound {ch : Channel} (h : ch.Sound) (hr : ch.state ≠ .orphaned) {nn : Nat} (h8 : nn % 8 = 0)
    (h64 : nn ≤ 64) : (ch.resizeNear nn).Sound := by
  obtain ⟨⟨s1, s2, s3⟩, ⟨-, -, n3⟩, h3, h4, h5, h6, h7, h8', h9, h10, h11, h12, h13, h14, h15, -⟩ := h
  refine ⟨⟨h8, h64, s3⟩, ⟨length_resizeTaps _ _, fun hn => ?_, n3⟩, h3, fun hf => ?_, h5, h6, h7, h8', h9, h10, h11,
      h12,
    h13, h14, h15, fun ho => absurd ho hr⟩
  · exact if_pos hn
  · obtain ⟨p1, p2, p3, p4, p5⟩ := h4 hf
    refine ⟨p1, p2.trans (Sizes.pageCount_near s2 h64), p3, p4, fun r hr => ?_⟩
    obtain ⟨⟨-, -, r3⟩, r4, r5⟩ := p5 r hr
    exact ⟨⟨h8, h64, r3⟩, by rw [r4]; unfold Channel.retunePages; rw [Sizes.pageCount_near s2 h64]; rfl, r5⟩

theorem State.setNear_keeps {s : State} {c : Chan} {l : Link} (h : (s.chan c).HeldBy l) {nn : Nat} (h8 : nn % 8 = 0)
    (h64 : nn ≤ 64) (hb : s.echoUsed - (s.chan c).charge + (s.chan c).chargeFor nn ≤ Config.echoBudget) :
    s.Keeps ((s.recharge c ((s.chan c).chargeFor nn)).updChan c (·.resizeNear nn)) := by
  refine .of_resize (b := { (s.chan c).resizeNear nn with charge := (s.chan c).chargeFor nn }) (Life.runs_of_held h)
    (fun c' => ?_) ⟨rfl, id, rfl, rfl, rfl, fun l => .refl _⟩ rfl rfl rfl rfl rfl (.refl _)
    (fun hs => Channel.resizeNear_sound hs h.not_orphaned h8 h64) id rfl fun _ _ hle => ⟨?_, hb⟩
  · simp only [State.recharge_eq, State.updChan_withPools, State.setChan_setChan, State.chan_withPools,
      State.chan_setChan, State.chan_setChan_ite]
    rfl
  · show s.echoUsed - (s.chan c).charge + (s.chan c).chargeFor nn + (s.chan c).charge =
      s.echoUsed + (s.chan c).chargeFor nn
    omega

/-! ### SET_FAR (R71 to R73) -/

/-- What a SET_FAR leaves of the record: the serving pages and the extra ones, the larger charge and the pending
retune. -/
def Channel.retuning (ch : Channel) (l : Link) (tag : Tag) (z : Sizes) (free : List Page) : Channel :=
  { ch with
    pages := ch.pages.take ch.servingPages ++ (free ++ ch.pages.drop ch.servingPages).take (ch.extraPages z)
    charge := ch.retuneCharge z
    retune := some { nf := z.nf, d := z.d, requester := some l, tag := tag, reserved := ch.extraPages z } }

theorem Channel.servingPages_eq (ch : Channel) : ch.servingPages = ch.pages.length - ch.reservedPages := by
  unfold Channel.servingPages Channel.reservedPages
  cases ch.retune <;> rfl

/-- The acceptance of a SET_FAR: the old requester is answered, the record and the pools change. -/
theorem State.acceptRetune_eq (s : State) (l : Link) (c : Chan) (tag : Tag) (z : Sizes) :
    s.acceptRetune l c tag z =
      ((s.answerRetune c .superseded []).setChan c ((s.chan c).retuning l tag z s.freeList)).withPools
        (s.echoUsed - (s.chan c).charge + (s.chan c).retuneCharge z)
        ((s.freeList ++ (s.chan c).pages.drop (s.chan c).servingPages).drop ((s.chan c).extraPages z)) := by
  unfold State.acceptRetune State.supersede
  cases hr : (s.chan c).retune with
  | none =>
    have hserving : (s.chan c).servingPages = (s.chan c).pages.length := by simp [Channel.servingPages, hr]
    have hanswer : s.answerRetune c .superseded [] = s := by simp [State.answerRetune, hr]
    simp [State.recharge_eq, State.grantPages_eq, Channel.retuning, hserving, hanswer]
  | some r =>
    have hserving : (s.chan c).servingPages = (s.chan c).pages.length - r.reserved := by simp [Channel.servingPages, hr]
    have h := s.answerRetune_sameButPorts c .superseded []
    simp [State.recharge_eq, State.grantPages_eq, State.releasePages_eq, Channel.retuning, Channel.retuneCharge,
        hserving,
      h.chan, h.echoUsed, h.freeList]

/-- The far sizes of R6: Nf a multiple of 16 to 128, D to 10,240 − Nf, and 0 with Nf. -/
def FarSound (nf d : Nat) : Prop := nf % 16 = 0 ∧ nf ≤ 128 ∧ d + nf ≤ Config.maxReach ∧ (nf = 0 → d = 0)

theorem SizesSound.pageCount_le {nn nf d : Nat} (h : SizesSound nn nf d) :
    ({ nn := nn, nf := nf, d := d } : Sizes).pageCount ≤ 40 := by
  obtain ⟨-, h2, -, -, h5, -⟩ := h
  refine Sizes.pageCount_le ?_
  simp only [Config.maxReach] at *
  omega

/-- A grant of the head of a list of free and dropped pages moves pages and loses none. -/
theorem granted_perm (free pages : List Page) (k x : Nat) :
    ((free ++ pages.drop k).drop x ++ (pages.take k ++ (free ++ pages.drop k).take x)).Perm (free ++ pages) := by
  refine (List.perm_append_comm (l₁ := (free ++ pages.drop k).drop x)).trans ?_
  rw [List.append_assoc, List.take_append_drop]
  refine (List.perm_append_comm_assoc _ _ _).trans ?_
  rw [List.take_append_drop]

theorem Channel.retuning_sound {ch : Channel} (h : ch.Sound) (hr : ch.state.runs = true) (l : Link) (tag : Tag) {z :
    Sizes}
    {free : List Page} (hfar : FarSound z.nf z.d) (hzn : z.nn = ch.nn)
    (hp : ch.extraPages z ≤ free.length + ch.reservedPages) : (ch.retuning l tag z free).Sound := by
  obtain ⟨hnf, hno⟩ := (Life.runs_iff _).mp hr
  obtain ⟨h1, h2, h3, h4, h5, h6⟩ := h
  obtain ⟨p1, p2, p3, p4, p5⟩ := h4 hnf
  have hz : SizesSound ch.nn z.nf z.d := ⟨h1.1, h1.2.1, hfar⟩
  have hle : ch.servingPages ≤ ch.pages.length := Nat.sub_le _ _
  have hreserved : ch.pages.length = ch.servingPages + ch.reservedPages := by
    unfold Channel.reservedPages
    cases hret : ch.retune with
    | none => simp [Channel.servingPages, hret]
    | some r => exact (p5 r hret).2.2
  have hlen : (ch.retuning l tag z free).pages.length = ch.servingPages + ch.extraPages z := by
    simp only [Channel.retuning, List.length_append, List.length_take, List.length_drop]
    omega
  have hserving : (ch.retuning l tag z free).servingPages = ch.servingPages := by
    show (ch.retuning l tag z free).pages.length - ch.extraPages z = _
    omega
  have hring : (ch.retuning l tag z free).ringLength = ch.ringLength := by
    rw [Channel.ringLength, hserving, Channel.ringLength]
  have hz40 : z.pageCount ≤ 40 := by have := SizesSound.pageCount_le hz; rwa [← hzn] at this
  refine ⟨h1, h2, h3, fun _ => ⟨?_, hserving.trans p2, by rw [hring]; exact p3, by rw [hring]; exact p4, ?_⟩,
    fun ho => absurd ho hno, h6⟩
  · rw [hlen, Channel.extraPages]; omega
  · intro r hr
    obtain rfl := Option.some.inj hr
    refine ⟨hz, ?_, by rw [hlen, hserving]⟩
    rw [hserving]
    show z.pageCount - ch.servingPages = ({ nn := ch.nn, nf := z.nf, d := z.d } : Sizes).pageCount - ch.servingPages
    rw [← hzn]

@[simp] theorem LinkPort.answer_state (p : LinkPort) (k : Fin 4) (code : Code) (body : List Word) :
    (p.answer k code body).state = p.state := by unfold LinkPort.answer; split <;> rfl

@[simp] theorem LinkPort.completes_state (p : LinkPort) (kind : CmdKind) (ch : ChanField) (code : Code) (body :
    List Word) :
    (p.completes kind ch code body).state = p.state := by unfold LinkPort.completes; split <;> simp

@[simp] theorem State.isDown_answerRetune (s : State) (c : Chan) (code : Code) (body : List Word) (l : Link) :
    (s.answerRetune c code body).isDown l = s.isDown l := by
  rw [State.isDown, State.port_answerRetune, State.isDown]; split <;> simp

theorem State.acceptRetune_keeps {s : State} {l : Link} {c : Chan} (h : (s.chan c).HeldBy l) (tag : Tag) {z : Sizes}
    (hz : FarSound z.nf z.d) (hzn : z.nn = (s.chan c).nn)
    (hl : s.isDown l = false) (hok : retuneRefusal s c z = none) : s.Keeps (s.acceptRetune l c tag z) := by
  have hsame := s.answerRetune_sameButPorts c .superseded []
  obtain ⟨hb, hp⟩ : s.echoUsed - (s.chan c).charge + (s.chan c).retuneCharge z ≤ Config.echoBudget ∧
      (s.chan c).extraPages z ≤ s.freeList.length + (s.chan c).reservedPages := by
    unfold retuneRefusal at hok
    split at hok
    · cases hok
    · split at hok
      · cases hok
      · omega
  refine (s.answerRetune_keeps c .superseded []).trans ?_
  rw [s.acceptRetune_eq]
  have hdown : (s.answerRetune c .superseded []).isDown l = false := by rw [State.isDown_answerRetune, hl]
  generalize hu : s.answerRetune c .superseded [] = u at *
  rw [← hsame.chan] at h hzn hb hp ⊢
  rw [← hsame.echoUsed] at hb ⊢
  rw [← hsame.freeList] at hp ⊢
  have hr := Life.runs_of_held h
  refine .of_resize (b := (u.chan c).retuning l tag z u.freeList) hr (fun c' => ?_)
    ⟨rfl, id, rfl, rfl, rfl, fun l => .refl _⟩ rfl rfl rfl rfl rfl (granted_perm _ _ _ _)
    (fun hs => Channel.retuning_sound hs hr l tag hz hzn hp) ?_ ?_ fun _ _ hle => ⟨?_, hb⟩
  · rw [State.chan_withPools, State.chan_setChan_ite]
  · rintro ⟨h1, h2, h3, h4, h5, h6, h7, h8, -, h10⟩
    exact ⟨h1, h2, h3, h4, h5, h6, h7, h8, fun r hr i hi => by
      obtain rfl := Option.some.inj hr; obtain rfl := Option.some.inj hi; exact hdown, h10⟩
  · show max _ (z.nn + z.nf) = (u.chan c).nn + max (u.chan c).nf z.nf
    omega
  · show u.echoUsed - (u.chan c).charge + (u.chan c).retuneCharge z + (u.chan c).charge =
      u.echoUsed + (u.chan c).retuneCharge z
    omega

/-! ### The application of a retune (R75 to R77) -/

/-- What the application of a retune leaves of the record: the new sizes and taps, the ring re-formed in as many pages
as the new sizes ask, the new charge, and no pending retune. -/
def Channel.retuned (ch : Channel) (r : Retune) : Channel :=
  { ch with
    far := ch.retunedFar r, nf := r.nf, d := r.d
    writePos := min ch.filled (Config.pageSize * ch.retunePages r) % (Config.pageSize * ch.retunePages r)
    filled := min ch.filled (Config.pageSize * ch.retunePages r)
    pages := ch.pages.take (ch.pages.length - (ch.pages.length - ch.retunePages r))
    charge := ch.nn + r.nf, retune := none }

/-- The storage after the samples that the new ring holds have moved to its start (R76). -/
def Channel.retunedPool (ch : Channel) (m : Memory) (r : Retune) : Memory :=
  ringWriteFrom m ch.pages 0 (ch.keptSamples m (min ch.filled (Config.pageSize * ch.retunePages r)))

/-- The state after a retune is applied, its requester not answered yet. -/
def State.retuned (s : State) (c : Chan) (r : Retune) : State :=
  ({ s with pool := (s.chan c).retunedPool s.pool r }.setChan c ((s.chan c).retuned r)).withPools
    (s.echoUsed - (s.chan c).charge + ((s.chan c).nn + r.nf))
    (s.freeList ++ (s.chan c).pages.drop ((s.chan c).pages.length - ((s.chan c).pages.length - (s.chan c).retunePages r)))

/-- The further words of the OK to SET_FAR (R77). -/
def Channel.retuneBody (ch : Channel) (r : Retune) : List Word :=
  [place r.nf 0 8 ||| place r.d 16 16, place (ch.retunePages r) 0 8 ||| place (ch.nn + r.nf) 16 16]

theorem State.setChan_answerOperation (s : State) (l : Link) (kind : CmdKind) (ch : ChanField) (code : Code)
    (body : List Word) (c : Chan) (x : Channel) :
    (s.answerOperation l kind ch code body).setChan c x = (s.setChan c x).answerOperation l kind ch code body := by
  unfold State.answerOperation
  rw [State.port_setChan]
  cases (s.port l).inProgress kind ch <;> rfl

/-- A pending retune is applied, and its requester answered if it still is a link. -/
theorem State.applyRetune_eq {s : State} {c : Chan} {r : Retune} (hr : (s.chan c).retune = some r) :
    s.applyRetune c = match r.requester with
      | some l => (s.retuned c r).answerOperation l .setFar (fieldOfChan c) .ok ((s.chan c).retuneBody r)
      | none => s.retuned c r := by
  unfold State.applyRetune
  simp only [hr]
  have hre : s.reformRing c r = { s with pool := (s.chan c).retunedPool s.pool r }.setChan c
      { s.chan c with
        far := (s.chan c).retunedFar r, nf := r.nf, d := r.d
        writePos := min (s.chan c).filled (Config.pageSize * (s.chan c).retunePages r) %
          (Config.pageSize * (s.chan c).retunePages r)
        filled := min (s.chan c).filled (Config.pageSize * (s.chan c).retunePages r) } := rfl
  rw [hre]
  unfold State.answerRetune
  simp only [State.recharge_eq, State.releasePages_eq, State.chan_withPools, State.chan_setChan,
      State.setChan_withPools,
    State.setChan_setChan, State.withPools_withPools, hr]
  cases r.requester with
  | none => simp only [State.updChan_withPools, State.setChan_setChan, State.chan_setChan]; rfl
  | some l =>
    simp only [State.updChan, State.setChan_answerOperation, (State.answerOperation_sameButPorts _ _ _ _ _ _).chan,
      State.chan_withPools, State.chan_setChan, State.setChan_withPools, State.setChan_setChan]
    rfl

theorem ringWriteFrom_poolSound {m : Memory} (h : m.wf = true ∧ ∀ cell ∈ m, cell.1 < 32768) (ps : List Page)
    (xs : List Sample) (p : Nat) :
    (ringWriteFrom m ps p xs).wf = true ∧ ∀ cell ∈ ringWriteFrom m ps p xs, cell.1 < 32768 := by
  induction xs generalizing m p with
  | nil => exact h
  | cons x xs ih =>
    exact ih ⟨ringWrite_wf h.1 ps p x, fun cell hc => (mem_ringWrite h.1 hc).elim (h.2 cell) id⟩ (p + 1)

theorem resizedGear_zero (old : Nat) (g : Gear) : resizedGear old 0 g = .off := rfl

theorem Channel.retunedFar_sound {ch : Channel} {n : Nat} (h : ch.far.Sound n) (r : Retune) :
    (ch.retunedFar r).Sound r.nf := by
  obtain ⟨-, -, h3⟩ := h
  unfold Channel.retunedFar
  dsimp only
  split
  · exact ⟨by simp [shiftTaps], fun hn => by simp [hn, resizedGear_zero, Gear.held], h3⟩
  · exact ⟨by simp [shiftTaps], fun hn => by simp [hn, resizedGear_zero], h3⟩

/-- The record of a running channel with a pending retune has, after its application, as many pages as the new sizes
ask. -/
theorem Channel.retuned_pages {ch : Channel} (h : ch.PagesSound) {r : Retune} (hr : ch.retune = some r) :
    (ch.retuned r).pages.length = ch.retunePages r ∧ 1 ≤ ch.retunePages r ∧ ch.retunePages r ≤ ch.pages.length := by
  obtain ⟨-, -, -, -, p5⟩ := h
  obtain ⟨-, hreserved, hlen⟩ := p5 r hr
  have hle : ch.retunePages r ≤ ch.pages.length := by omega
  refine ⟨?_, (Sizes.pageCount_bounds _).1, hle⟩
  simp only [Channel.retuned, List.length_take]
  omega

theorem Channel.retuned_sound {ch : Channel} (h : ch.Sound) (hruns : ch.state.runs = true) {r : Retune}
    (hr : ch.retune = some r) : (ch.retuned r).Sound := by
  obtain ⟨hnf, hno⟩ := (Life.runs_iff _).mp hruns
  obtain ⟨-, h2, h3, h4, -, h6, h7, h8, h9, h10, h11, h12, h13, h14, h15, h16⟩ := h
  have hpages := h4 hnf
  obtain ⟨hlen, hone, hle⟩ := Channel.retuned_pages hpages hr
  obtain ⟨p1, -, -, -, p5⟩ := hpages
  obtain ⟨hsizes, -, -⟩ := p5 r hr
  have hserving : (ch.retuned r).servingPages = ch.retunePages r := by
    rw [← hlen]; exact Nat.sub_zero _
  refine ⟨hsizes, h2, Channel.retunedFar_sound h3 r, fun _ =>
      ⟨hlen.trans_le (hle.trans p1), hserving, ?_, ?_, fun r hr => by cases hr⟩,
    fun _ => rfl, h6, h7, h8, h9, h10, h11, h12, h13, h14, h15, fun ho => ?_⟩
  · rw [Channel.ringLength, hserving]
    exact Nat.mod_lt _ (Nat.mul_pos (by decide) hone)
  · rw [Channel.ringLength, hserving]
    exact Nat.min_le_right _ _
  · obtain ⟨o1, -, o3⟩ := h16 ho
    refine ⟨o1, ?_, o3⟩
    show (ch.retunedFar r).gear.adapts = false
    have ho : ch.state = .orphaned := ho
    rw [Channel.retunedFar, if_pos ho]
    exact Gear.adapts_held _

theorem State.retuned_works {s : State} {c : Chan} {r : Retune} (hruns : (s.chan c).state.runs = true)
    (hr : (s.chan c).retune = some r) : s.Works (s.retuned c r) := by
  have hlife : ∀ c', (s.retuned c r).chan c' = if c' = c then (s.chan c).retuned r else s.chan c' := fun c' => by
    rw [State.retuned, State.chan_withPools, State.chan_setChan_ite]
    rfl
  refine ⟨.of_resize (b := (s.chan c).retuned r) hruns hlife ⟨rfl, fun h => ringWriteFrom_poolSound h _ _ _, rfl, rfl,
      rfl,
    fun _ => .refl _⟩ rfl rfl rfl rfl rfl ?_ (fun h => Channel.retuned_sound h hruns hr) ?_ rfl ?_, fun c' => ?_⟩
  · refine (List.append_assoc _ _ _).symm ▸ List.Perm.append_left _ ?_
    refine List.perm_append_comm.trans ?_
    rw [Channel.retuned, List.take_append_drop]
  · rintro ⟨h1, h2, h3, h4, h5, h6, h7, h8, -, h10⟩
    exact ⟨h1, h2, h3, h4, h5, h6, h7, h8, fun r hr => (by cases hr), h10⟩
  · rintro ⟨-, -, -, -, -, -, -, hbudget⟩ howed hle
    have hcharge : (s.chan c).nn + r.nf ≤ (s.chan c).charge := by
      rw [howed, Channel.owed, Channel.chargeFor, hr]
      dsimp only
      omega
    show s.echoUsed - (s.chan c).charge + ((s.chan c).nn + r.nf) + (s.chan c).charge =
        s.echoUsed + ((s.chan c).nn + r.nf) ∧
      s.echoUsed - (s.chan c).charge + ((s.chan c).nn + r.nf) ≤ Config.echoBudget
    omega
  · rw [hlife]
    split
    · rename_i hc; rw [hc]; rfl
    · rfl

theorem State.applyRetune_works {s : State} {c : Chan} (hruns : (s.chan c).state.runs = true) :
    s.Works (s.applyRetune c) := by
  cases hr : (s.chan c).retune with
  | none => rw [State.applyRetune, hr]; exact .refl s
  | some r =>
    rw [State.applyRetune_eq hr]
    have h := State.retuned_works hruns hr
    cases r.requester with
    | none => exact h
    | some l =>
      exact h.trans (.of_channels (State.answerOperation_keeps _ _ _ _ _ _)
        (State.answerOperation_sameButPorts _ _ _ _ _ _).channels)

end Sys2Proof.Machine

/-! SUPPORT. A record that begins or ends its service, and one that gains or loses its EQ context: OPEN, the context
clear, CLOSE, EQ_OPEN and EQ_CLOSE. -/

namespace Sys2Proof.Machine

/-- One record replaced, with the shared resources, while traffic passes on the ports. -/
theorem State.Keeps.of_record {s t : State} {c : Chan} {b : Channel} (hc : ∀ c', t.chan c' = if c' = c then b else s.chan c')
    (hpending : t.pending = s.pending) (hpool : s.PoolSound → t.PoolSound) (hlinks : t.links = s.links)
    (hseat : t.engine.map (fun e => (e.link, e.place)) = s.engine.map (fun e => (e.link, e.place)))
    (hclear : t.clear = s.clear) (hacc : s.AccountsSound → t.AccountsSound) (hsound : (s.chan c).Sound → b.Sound)
    (hroles : (s.chan c).RolesSound s.isDown → b.RolesSound s.isDown) (heq : s.EqSound → t.EqSound) : s.Keeps t where
  pending := hpending
  pool := hpool
  accounts := hacc
  channels hs c' := by
    rw [hc]; split
    · exact hsound (hs c)
    · exact hs c'
  roles hs c' := by
    have hdown : t.isDown = s.isDown := by funext l; simp only [State.isDown, State.port, hlinks]
    rw [hc, hdown]; split
    · exact hroles (hs c)
    · exact hs c'
  ports := .of_seats (fun l => by rw [State.port, State.port, hlinks]; exact .refl _) hseat hclear
  eq _ := heq

theorem Channel.HeldBy.not_free {ch : Channel} {l : Link} (h : ch.HeldBy l) : ch.state ≠ .free :=
  ((Life.runs_iff _).mp (Life.runs_of_held h)).1

theorem Channel.HeldBy.not_opening {ch : Channel} {l : Link} (h : ch.HeldBy l) : ch.state ≠ .opening :=
  ((Life.runs_iff _).mp (Life.runs_of_held h)).2

/-! ### OPEN (R8) -/

/-- The record of a channel whose OPEN has been taken, with its pages. -/
def openedWith (l : Link) (m : CmdMsg) (slot : Slot) (lb : Loopback) (free : List Page) : Channel :=
  { openedRecord l m slot lb with pages := free.take (openSizes m).pageCount }

theorem State.openTaken_eq (s : State) (l : Link) (c : Chan) (m : CmdMsg) (slot : Slot) (lb : Loopback) :
    s.openTaken l c m slot lb =
      { s.setChan c (openedWith l m slot lb s.freeList) with
        slotMap := s.slotMap.set slot.val (some c), echoUsed := s.echoUsed + (openSizes m).cost
        freeList := s.freeList.drop (openSizes m).pageCount } := by
  unfold State.openTaken State.grantPages
  simp only [State.updChan, State.chan, State.setChan, Vector.getElem_set_self, Vector.set_set]
  rfl

theorem openSizes_sound (m : CmdMsg) : SizesSound (openSizes m).nn (openSizes m).nf (openSizes m).d := by
  unfold openSizes
  split <;> exact effectiveSizes_sound _ _ _

theorem Playout.free_sound : Playout.free.Sound := by decide

theorem Filter.start_sound {n : Nat} {g : Gear} (h : n = 0 → g = .off) : (Filter.start n g).Sound n :=
  ⟨List.length_replicate, h, (by decide : 12 ≤ Filter.free.trainM ∧ Filter.free.trainM ≤ 30),
    (by decide : 12 ≤ Filter.free.trackM ∧ Filter.free.trackM ≤ 30),
    (by decide : Filter.free.leak = 0 ∨ 12 ≤ Filter.free.leak ∧ Filter.free.leak ≤ 30)⟩

theorem Channel.free_sound : Channel.free.Sound :=
  ⟨by decide, by decide, by decide, fun h => absurd rfl h, nofun, by decide, by decide, by decide, by decide,
    by decide, by decide, by decide, by decide, by decide, Playout.free_sound, nofun⟩

/-- A record whose settings, estimates, runs and playout are those of a FREE channel's. -/
theorem Channel.Sound.of_free {ch : Channel} (hsizes : SizesSound ch.nn ch.nf ch.d) (hnear : ch.near.Sound ch.nn)
    (hfar : ch.far.Sound ch.nf) (hpages : ch.PagesSound) (hretune : ch.retune = none)
    (hholds : ch.state = .orphaned → ch.near.gear.adapts = false ∧ ch.far.gear.adapts = false)
    (hrest : { Channel.free with
      state := ch.state, holder := ch.holder, slot := ch.slot, loopback := ch.loopback, idle := ch.idle, nn := ch.nn
      nf := ch.nf, d := ch.d, charge := ch.charge, pages := ch.pages, near := ch.near, far := ch.far } = ch) : ch.Sound := by
  obtain ⟨-, -, -, -, -, f6, f7, f8, f9, f10, f11, f12, f13, f14, f15, -⟩ := Channel.free_sound
  have hruns : ch.convRun = 0 ∧ ch.divRun = 0 := by rw [← hrest]; exact ⟨rfl, rfl⟩
  refine ⟨hsizes, hnear, hfar, fun _ => hpages, fun _ => hretune, ?_⟩
  rw [← hrest] at *
  exact ⟨f6, f7, f8, f9, f10, f11, f12, f13, f14, f15, fun ho => ⟨(hholds ho).1, (hholds ho).2, hruns⟩⟩

theorem openedWith_sound {m : CmdMsg} {free : List Page} (hp : (openSizes m).pageCount ≤ free.length) (l : Link)
    (slot : Slot) (lb : Loopback) : (openedWith l m slot lb free).Sound := by
  have hs := openSizes_sound m
  have hone := (openSizes m).pageCount_bounds.1
  have hlen : (openedWith l m slot lb free).pages.length = (openSizes m).pageCount := by
    rw [openedWith, List.length_take, Nat.min_eq_left hp]
  have hserving : (openedWith l m slot lb free).servingPages = (openSizes m).pageCount := hlen
  refine .of_free hs (Filter.start_sound fun _ => rfl) (Filter.start_sound fun _ => rfl)
    ⟨?_, hserving, ?_, Nat.zero_le _, fun r hr => by cases hr⟩ rfl (nofun) rfl
  · rw [hlen]; exact SizesSound.pageCount_le hs
  · rw [Channel.ringLength, hserving]
    exact Nat.mul_pos (by decide) hone

theorem openedWith_roles {l : Link} {down : Link → Bool} (hl : down l = false) (m : CmdMsg) (slot : Slot) (lb : Loopback)
    (free : List Page) : (openedWith l m slot lb free).RolesSound down := by
  refine ⟨nofun, nofun, fun i hi => ?_, nofun,
    nofun, nofun, nofun, fun _ => rfl, nofun, Nat.zero_le _,
    nofun⟩
  obtain rfl := Option.some.inj hi
  exact ⟨hl, by simp [openedWith, openedRecord, Channel.free], by simp [openedWith, openedRecord, Channel.free]⟩

/-- The slot map and the records agree after a free slot is given to a channel without one. -/
theorem State.slots_of_given {s t : State} (h : s.AccountsSound) {c : Chan} {b : Channel} {k₀ : Slot}
    (hc : ∀ c', t.chan c' = if c' = c then b else s.chan c') (hb : b.slot = some k₀) (hold : (s.chan c).slot = none)
    (hfree : s.slotMap[k₀.val] = none) (hm : t.slotMap = s.slotMap.set k₀.val (some c)) (k : Slot) (c' : Chan) :
    t.slotMap[k.val] = some c' ↔ (t.chan c').slot = some k := by
  obtain ⟨-, -, -, h4, -⟩ := h
  have hk := h4 k c'
  rw [hc]
  simp only [hm, Vector.getElem_set]
  split
  · rename_i hkk
    obtain rfl : k₀ = k := Fin.ext hkk
    split
    · rename_i hcc; simp [hb, hcc]
    · rename_i hcc
      rw [← hk, hfree]
      simp [Ne.symm hcc]
  · rename_i hkk
    split
    · rename_i hcc
      subst hcc
      rw [hk, hold, hb]
      simp only [reduceCtorEq, Option.some.injEq, false_iff]
      exact fun h => hkk (congrArg Fin.val h)
    · exact hk

theorem State.openTaken_keeps {s : State} {l : Link} {c : Chan} {m : CmdMsg} {slot : Slot} (lb : Loopback)
    (hfree : (s.chan c).state = .free) (hslot : s.slotMap[slot.val] = none)
    (hbudget : s.echoUsed + (openSizes m).cost ≤ Config.echoBudget) (hpages : (openSizes m).pageCount ≤ s.freeList.length)
    (hl : s.isDown l = false) : s.Keeps (s.openTaken l c m slot lb) := by
  rw [s.openTaken_eq]
  have hc : ∀ c', ({ s.setChan c (openedWith l m slot lb s.freeList) with
        slotMap := s.slotMap.set slot.val (some c), echoUsed := s.echoUsed + (openSizes m).cost
        freeList := s.freeList.drop (openSizes m).pageCount } : State).chan c' =
      if c' = c then openedWith l m slot lb s.freeList else s.chan c' := fun c' => State.chan_setChan_ite _ _ _ _
  refine .of_record hc rfl id rfl rfl rfl (fun hs => ?_) (fun _ => openedWith_sound hpages l slot lb)
    (fun _ => openedWith_roles hl m slot lb _) fun hs => ?_
  · obtain ⟨hp, hch, hsl, -⟩ := hs.1 c hfree
    refine hs.of_update hc ?_ ?_ hbudget (State.slots_of_given hs hc rfl hsl hslot rfl) (nofun) (fun _ => rfl)
      fun _ => ⟨rfl, rfl⟩
    · rw [hp, List.append_nil]
      exact List.perm_append_comm.trans (List.take_append_drop _ _ ▸ .refl _)
    · rw [hch]; rfl
  · have hnone : (s.chan c).eqTaps = 0 := by
      rw [hs.1 c hfree]; rfl
    refine hs.of_update hc (fun l j hj _ => hj) (fun l h => h) rfl (fun e he => ⟨e, he, rfl, id⟩) (nofun)
      (fun _ => rfl) (fun q hq => by cases hq) (by rw [hnone]; rfl) hs.2.2.2.2.1
      (fun l j _ _ _ hh => absurd hfree hh.not_free) fun e _ _ _ hr => ?_
    exact absurd hfree ((Life.runs_iff _).mp hr).1

/-! ### The context clear (R9 to R11) -/

theorem Channel.startValues_sound {ch : Channel} (h : ch.Sound) (ho : ch.state = .opening) : ch.startValues.Sound := by
  obtain ⟨hsizes, -, -, hpages, hretune, -⟩ := h
  obtain ⟨p1, p2, -, -, -⟩ := hpages (by rw [ho]; nofun)
  have hserving : ch.startValues.servingPages = ch.servingPages := by
    simp [Channel.servingPages, Channel.startValues, Channel.free, hretune ho]
  have hone := (({ nn := ch.nn, nf := ch.nf, d := ch.d } : Sizes).pageCount_bounds).1
  refine .of_free hsizes (Filter.start_sound fun hn => if_pos hn) (Filter.start_sound fun hn => if_pos hn)
    ⟨p1, hserving.trans p2, ?_, Nat.zero_le _, nofun⟩ rfl (fun h => ?_) rfl
  · rw [Channel.ringLength, hserving, p2]
    exact Nat.mul_pos (by decide) hone
  · have h : ch.state = .orphaned := h
    rw [ho] at h
    cases h

/-- The context clear gives a started record its next lifecycle state and changes none of its resources. -/
theorem State.started_keeps {s : State} {c : Chan} {b : Channel} (ho : (s.chan c).state = .opening) (hr : b.state.runs = true)
    (hslot : b.slot = (s.chan c).slot) (hcharge : b.charge = (s.chan c).charge) (hpages : b.pages = (s.chan c).pages)
    (howed : b.owed = (s.chan c).nn + (s.chan c).nf) (heq : b.eq = none)
    (hsound : (s.chan c).Sound → b.Sound) (hroles : (s.chan c).RolesSound s.isDown → b.RolesSound s.isDown) :
    s.Keeps (s.setChan c b) := by
  obtain ⟨hnf, hno⟩ := (Life.runs_iff _).mp hr
  have hc : ∀ c', (s.setChan c b).chan c' = if c' = c then b else s.chan c' := fun c' => State.chan_setChan_ite _ _ _ _
  refine .of_record hc rfl id rfl rfl rfl (fun hs => ?_) hsound hroles fun hs => ?_
  · have hs' := hs
    obtain ⟨-, h2, h3, -, -, -, -, h8⟩ := hs'
    obtain ⟨hsome, hch⟩ := h3 c (by rw [ho]; nofun)
    refine hs.of_update hc (by rw [hpages]; rfl) (by rw [hcharge]; rfl) h8 (State.slots_of_same hs hc hslot rfl)
      (fun h => absurd h hnf) (fun h => absurd h hno) fun _ => ⟨hslot ▸ hsome, ?_⟩
    rw [hcharge, hch, howed, Channel.owed, Channel.chargeFor, h2 c ho]
  · have hs' := hs
    obtain ⟨-, h2, -, -, h5, -⟩ := hs'
    refine hs.of_update hc (fun l j hj _ => hj) (fun l h => h) rfl (fun e he => ⟨e, he, rfl, id⟩) (fun h => absurd h hnf)
      (fun h => absurd h hno) (fun q hq => by rw [heq] at hq; cases hq) ?_ h5 (fun l j _ _ _ hh => absurd ho hh.not_opening)
      fun e _ _ _ hr => absurd ho ((Life.runs_iff _).mp hr).2
    rw [Channel.eqTaps, Channel.eqTaps, h2 c ho, heq]
    rfl

theorem zeroPages_poolSound {m : Memory} (h : m.wf = true ∧ ∀ cell ∈ m, cell.1 < 32768) (ps : List Page) :
    (m.zeroPages ps).wf = true ∧ ∀ cell ∈ m.zeroPages ps, cell.1 < 32768 :=
  ⟨Memory.zeroPages_wf h.1 ps, fun cell hc => h.2 cell (Memory.mem_zeroPages hc)⟩

/-- The record that a context clear makes ACTIVE (R9, R10). -/
def Channel.activated (ch : Channel) : Channel := { ch.startValues with state := .active }

/-- The record that a context clear makes ORPHANED (R11). -/
def Channel.orphanStarted (ch : Channel) : Channel := { ch.startValues.orphanHold with state := .orphaned }

/-- The storage of a state replaced. -/
def State.withPool (s : State) (m : Memory) : State := { s with pool := m }

@[simp] theorem State.chan_withPool (s : State) (m : Memory) (c : Chan) : (s.withPool m).chan c = s.chan c := rfl

@[simp] theorem State.isDown_withPool (s : State) (m : Memory) (l : Link) : (s.withPool m).isDown l = s.isDown l := rfl

theorem State.withPool_keeps (s : State) (ps : List Page) : s.Keeps (s.withPool (s.pool.zeroPages ps)) :=
  .setPool s _ fun h => zeroPages_poolSound h ps

/-- The context clear of an OPENING channel with a holder (R9, R10). -/
theorem State.contextCleared_held {s : State} {c : Chan} {l : Link} (ho : (s.chan c).state = .opening) (hm : s.mark = false)
    (hh : (s.chan c).holder = some l) : s.contextCleared c =
      ((s.withPool (s.pool.zeroPages (s.chan c).pages)).setChan c (s.chan c).activated).answerOperation l .openChannel
        (fieldOfChan c) .ok (s.chan c).startValues.openBody := by
  have hh' : (s.chan c).startValues.holder = some l := hh
  unfold State.contextCleared
  dsimp only
  rw [if_pos ⟨ho, hm⟩]
  have hactive : (s.chan c).activated = { (s.chan c).startValues with state := .active, holder := some l } := by
    rw [← hh']; rfl
  rw [hactive, hh']
  rfl

/-- The context clear of an OPENING channel whose requester was lost (R11). -/
theorem State.contextCleared_lost {s : State} {c : Chan} (ho : (s.chan c).state = .opening) (hm : s.mark = false)
    (hh : (s.chan c).holder = none) : s.contextCleared c =
      ((s.withPool (s.pool.zeroPages (s.chan c).pages)).setChan c (s.chan c).orphanStarted).notifyEach allLinks
        ((s.chan c).orphanStarted.orphanedNotice c none) := by
  have hh' : (s.chan c).startValues.holder = none := hh
  unfold State.contextCleared
  dsimp only
  rw [if_pos ⟨ho, hm⟩, hh']
  rfl

theorem State.contextCleared_other {s : State} {c : Chan} (h : ¬ ((s.chan c).state = .opening ∧ s.mark = false)) :
    s.contextCleared c = s := if_neg h

theorem Channel.orphanStarted_sound {ch : Channel} (h : ch.Sound) (ho : ch.state = .opening) : ch.orphanStarted.Sound := by
  obtain ⟨hsizes, hnear, hfar, hpages, -, f6, f7, f8, f9, f10, f11, -, -, f14, f15, -⟩ := Channel.startValues_sound h ho
  have hp := hpages (by show ch.state ≠ .free; rw [ho]; nofun)
  exact ⟨hsizes, Filter.orphanHold_sound hnear, Filter.orphanHold_sound hfar, fun _ => hp, nofun, f6, f7, f8, f9,
    f10, f11, Nat.zero_le _, Nat.zero_le _, f14, f15, fun _ => ⟨Gear.adapts_held _, Gear.adapts_held _, rfl, rfl⟩⟩

theorem Channel.activated_sound {ch : Channel} (h : ch.Sound) (ho : ch.state = .opening) : ch.activated.Sound := by
  obtain ⟨hsizes, hnear, hfar, hpages, -, f6, f7, f8, f9, f10, f11, f12, f13, f14, f15, -⟩ := Channel.startValues_sound h ho
  have hp := hpages (by show ch.state ≠ .free; rw [ho]; nofun)
  exact ⟨hsizes, hnear, hfar, fun _ => hp, nofun, f6, f7, f8, f9, f10, f11, f12, f13, f14, f15, nofun⟩

theorem State.contextCleared_keeps (s : State) (c : Chan) : s.Keeps (s.contextCleared c) := by
  by_cases hcond : (s.chan c).state = .opening ∧ s.mark = false
  · obtain ⟨ho, hm⟩ := hcond
    cases hh : (s.chan c).holder with
    | some l =>
      rw [State.contextCleared_held ho hm hh]
      refine ((s.withPool_keeps _).trans (State.started_keeps (b := (s.chan c).activated) ho rfl rfl rfl rfl rfl rfl
        (fun h => Channel.activated_sound h ho) ?_)).trans (State.answerOperation_keeps _ _ _ _ _ _)
      rintro ⟨-, -, h3, -⟩
      have hsome : (s.chan c).activated.holder = some l := hh
      exact ⟨fun _ => by rw [hsome]; rfl, nofun,
        fun i hi => ⟨(h3 i hi).1, nofun, nofun⟩, nofun, nofun, nofun, nofun, fun _ => rfl, nofun, Nat.zero_le _, nofun⟩
    | none =>
      rw [State.contextCleared_lost ho hm hh]
      refine ((s.withPool_keeps _).trans (State.started_keeps (b := (s.chan c).orphanStarted) ho rfl rfl rfl rfl rfl rfl
        (fun h => Channel.orphanStarted_sound h ho) ?_)).trans (State.notifyEach_keeps _ _ _)
      rintro -
      have hnone : (s.chan c).orphanStarted.holder = none := hh
      exact ⟨nofun, fun _ => hnone, fun i hi => (by rw [hnone] at hi; cases hi), nofun, nofun, nofun, nofun,
        fun _ => rfl, nofun, Nat.zero_le _, nofun⟩
  · rw [State.contextCleared_other hcond]; exact .refl s

/-! ### CLOSE (R14) -/

theorem fieldOfChan_of_chanOf {f : ChanField} {c : Chan} (h : chanOf f = some c) : f = fieldOfChan c := by
  unfold chanOf at h
  split at h
  · obtain rfl := Option.some.inj h
    simp [fieldOfChan]
  · cases h

theorem State.port_finishQueued (s : State) (c : Chan) (st : EqStatus) (i : Link) :
    (s.finishQueued c st).port i = (s.port i).finishQueued c st s.freeCount := by
  show (s.updPorts (·.finishQueued c st s.freeCount)).port i = _
  rw [State.port_updPorts]

theorem State.port_finishQueuedOf (s : State) (l : Link) (c : Chan) (st : EqStatus) (i : Link) :
    (s.finishQueuedOf l c st).port i = if i = l then (s.port l).finishQueued c st s.freeCount else s.port i := by
  show (s.updPort l (·.finishQueued c st s.freeCount)).port i = _
  rw [State.port_updPort_ite]

/-- A job that is QUEUED after the results of a channel's jobs are made is not one of the channel. -/
theorem LinkPort.finishQueued_none {p : LinkPort} {c : Chan} {st : EqStatus} {n : Nat} {j : Job}
    (hj : j ∈ (p.finishQueued c st n).jobs) (hq : j.state = .queued) : chanOf j.chan ≠ some c := by
  intro hc
  obtain ⟨i, -, rfl⟩ := List.mem_map.mp hj
  by_cases hi : i.queuedFor c = true
  · rw [if_pos hi] at hq; cases hq
  · rw [if_neg hi] at hq hc
    exact hi ((i.queuedFor_iff c).mpr ⟨hq, fieldOfChan_of_chanOf hc⟩)

/-- After their results are made, no job of the channel is QUEUED. -/
theorem State.finishQueued_none (s : State) (c : Chan) (st : EqStatus) (l : Link) :
    ∀ j ∈ ((s.finishQueued c st).port l).jobs, j.state = .queued → chanOf j.chan ≠ some c := by
  intro j hj
  rw [State.port_finishQueued] at hj
  exact LinkPort.finishQueued_none hj

/-- The slot map and the records agree after a channel's slot is freed. -/
theorem State.slots_of_freed {s t : State} (h : s.AccountsSound) {c : Chan} {b : Channel}
    (hc : ∀ c', t.chan c' = if c' = c then b else s.chan c') (hb : b.slot = none)
    (hm : t.slotMap = match (s.chan c).slot with | some k => s.slotMap.set k.val none | none => s.slotMap) (k : Slot)
    (c' : Chan) : t.slotMap[k.val] = some c' ↔ (t.chan c').slot = some k := by
  obtain ⟨-, -, -, h4, -⟩ := h
  have hk := h4 k c'
  rw [hc]
  cases hslot : (s.chan c).slot with
  | none =>
    simp only [hm, hslot]
    split
    · rename_i hcc; rw [hk, hcc, hslot, hb]
    · exact hk
  | some k₀ =>
    simp only [hm, hslot, Vector.getElem_set]
    split
    · rename_i hkk
      obtain rfl : k₀ = k := Fin.ext hkk
      split
      · simp [hb]
      · rename_i hcc
        rw [← hk, (h4 k₀ c).mpr hslot]
        simp [Ne.symm hcc]
    · rename_i hkk
      split
      · rename_i hcc
        rw [hk, hcc, hslot, hb]
        simp only [reduceCtorEq, Option.some.injEq, iff_false]
        exact fun h => hkk (congrArg Fin.val h)
      · exact hk

theorem Channel.free_roles (down : Link → Bool) : Channel.free.RolesSound down :=
  ⟨nofun, fun _ => rfl, nofun, nofun, nofun, nofun, nofun, fun _ => rfl, nofun, Nat.zero_le _, nofun⟩

/-- The record freed, with its slot, charge, pages and EQ taps, when its queued jobs have their results (R14). -/
def State.released (s : State) (c : Chan) : State :=
  { s with
    engine := markClosed c s.engine, eqUsed := s.eqUsed - (s.chan c).eqTaps, freeList := s.freeList ++ (s.chan c).pages
    echoUsed := s.echoUsed - (s.chan c).charge
    slotMap := match (s.chan c).slot with | some k => s.slotMap.set k.val none | none => s.slotMap }.setChan c Channel.free

theorem State.freeChannel_eq (s : State) (c : Chan) : s.freeChannel c = (s.finishQueued c .closed).released c := rfl

theorem markClosed_seats (c : Chan) (e : Option RunJob) :
    (markClosed c e).map (fun e => (e.link, e.place)) = e.map (fun e => (e.link, e.place)) := by
  cases e with
  | none => rfl
  | some j => simp only [markClosed, Option.map_some]; split <;> rfl

theorem State.released_keeps {s : State} {c : Chan}
    (hnone : ∀ l, ∀ j ∈ (s.port l).jobs, j.state = .queued → chanOf j.chan ≠ some c) : s.Keeps (s.released c) := by
  have hc : ∀ c', (s.released c).chan c' = if c' = c then Channel.free else s.chan c' := fun c' =>
    State.chan_setChan_ite _ _ _ _
  refine .of_record hc rfl id rfl (markClosed_seats c s.engine) rfl (fun hs => ?_) (fun _ => Channel.free_sound)
    (fun _ => Channel.free_roles _) fun hs => ?_
  · have hle := hs.charge_le c
    have hs' := hs
    obtain ⟨-, -, -, -, -, -, -, h8⟩ := hs'
    refine hs.of_update hc ?_ ?_ ?_ (State.slots_of_freed hs hc rfl rfl) (fun _ => ⟨rfl, rfl, rfl, rfl⟩) nofun
      fun h => absurd rfl h
    · exact (List.append_nil _).symm ▸ .refl _
    · show s.echoUsed - (s.chan c).charge + (s.chan c).charge = s.echoUsed + 0
      omega
    · exact (Nat.sub_le _ _).trans h8
  · have hle := hs.eqTaps_le c
    have hs' := hs
    obtain ⟨-, -, -, -, h5, -⟩ := hs'
    have hengine : ∀ e, (s.released c).engine = some e → ∃ e', s.engine = some e' ∧ e'.chan = e.chan ∧
        (e.closed = false → e'.closed = false ∧ e.chan ≠ c) := by
      intro e he
      obtain ⟨e', he', rfl⟩ := Option.map_eq_some_iff.mp (he : markClosed c s.engine = some e)
      refine ⟨e', he', by split <;> rfl, ?_⟩
      split
      · intro h; cases h
      · exact fun h => ⟨h, ‹_›⟩
    refine hs.of_update hc (fun l j hj _ => hj) (fun l h => h) rfl (fun e he => ?_) (fun _ => rfl) nofun nofun ?_
      ((Nat.sub_le _ _).trans h5) (fun l j hj hq hjc => absurd hjc (hnone l j hj hq)) fun e he hcl hec => ?_
    · obtain ⟨e', he', hch, hcl⟩ := hengine e he
      exact ⟨e', he', hch, fun h => (hcl h).1⟩
    · show s.eqUsed - (s.chan c).eqTaps + (s.chan c).eqTaps = s.eqUsed + 0
      omega
    · obtain ⟨_, -, -, hcl'⟩ := hengine e he
      exact absurd hec (hcl' hcl).2

theorem State.closeTaken_keeps (s : State) (c : Chan) : s.Keeps (s.closeTaken c) := by
  unfold State.closeTaken
  refine (((s.answerRetune_keeps c .closed []).trans (State.withdrawOffer_keeps _ c .closed)).trans
    (.foldl (fun s l => s.endWatch_keeps c l) allLinks _)).trans ?_
  rw [State.freeChannel_eq]
  exact (State.finishQueued_keeps _ c .closed).trans (State.released_keeps fun l => State.finishQueued_none _ c .closed l)

/-! ### EQ_OPEN and EQ_CLOSE (R92, R93) -/

/-- A running channel's EQ context replaced or removed, with its taps in the budget. -/
theorem State.Keeps.of_context {s : State} {c : Chan} (hr : (s.chan c).state.runs = true) (e : Option EqCtx)
    (hq : ∀ q, e = some q → q.Sound) (n : Nat)
    (hn : (s.chan c).eqTaps ≤ s.eqUsed → n + (s.chan c).eqTaps = s.eqUsed + Channel.eqTaps { s.chan c with eq := e })
    (hle : s.eqUsed ≤ Config.eqBudget → n ≤ Config.eqBudget)
    (hjobs : e.isSome = true ∨ s.jobRuns c = false ∧ ∀ l, ∀ j ∈ (s.port l).jobs, j.state = .queued → chanOf j.chan ≠ some c) :
    s.Keeps { s.updChan c (fun ch => { ch with eq := e }) with eqUsed := n } := by
  obtain ⟨hnf, hno⟩ := (Life.runs_iff _).mp hr
  have hc : ∀ c', ({ s.updChan c (fun ch => { ch with eq := e }) with eqUsed := n } : State).chan c' =
      if c' = c then { s.chan c with eq := e } else s.chan c' := fun c' => State.chan_setChan_ite _ _ _ _
  refine .of_record hc rfl id rfl rfl rfl (fun hs => ?_) id id fun hs => ?_
  · have hs' := hs
    obtain ⟨-, -, h3, -, -, -, -, h8⟩ := hs'
    exact hs.of_update hc (.refl _) rfl h8 (State.slots_of_same hs hc rfl rfl) (fun h => absurd h hnf) (fun h => absurd h hno)
      fun _ => h3 c hnf
  · have hs' := hs
    obtain ⟨-, -, -, -, h5, -⟩ := hs'
    refine hs.of_update hc (fun l j hj _ => hj) (fun l h => h) rfl (fun e he => ⟨e, he, rfl, id⟩) (fun h => absurd h hnf)
      (fun h => absurd h hno) hq (hn (hs.eqTaps_le c)) (hle h5) (fun l j hj hq hjc hh hsome => ⟨hh, ?_⟩)
      fun e' he' _ hec hr' hsome => ⟨hr', ?_⟩
    · rcases hjobs with h | ⟨-, h⟩
      · exact h
      · exact absurd hjc (h l j hj hq)
    · rcases hjobs with h | ⟨h, -⟩
      · exact h
      · have he' : s.engine = some e' := he'
        rw [State.jobRuns, he'] at h
        simp [hec] at h

theorem levelsOf_cases {n lv : Nat} (h : levelsOf n = some lv) : lv = 2 ∨ lv = 4 ∨ lv = 8 ∨ lv = 16 := by
  unfold levelsOf at h
  split at h <;> simp_all

/-- The start values of an EQ context lie in the ranges of R91. -/
theorem EqCtx.start_sound {lv : Nat} (hlv : lv = 2 ∨ lv = 4 ∨ lv = 8 ∨ lv = 16) (n a tr tk : Nat) (mode : EqMode) :
    (EqCtx.start lv (effectiveEqTaps n) (effectiveSpacing lv a) (effectiveStep tr) (effectiveStep tk) mode).Sound := by
  have hne : effectiveEqTaps n % 2 = 0 ∧ 8 ≤ effectiveEqTaps n ∧ effectiveEqTaps n ≤ 32 := by
    unfold effectiveEqTaps
    split
    · omega
    · split <;> omega
  have ha : 1 ≤ effectiveSpacing lv a ∧ effectiveSpacing lv a ≤ 32767 / (lv - 1) := by
    have : 1 ≤ 32767 / (lv - 1) := by rcases hlv with rfl | rfl | rfl | rfl <;> decide
    unfold effectiveSpacing clampNat
    omega
  exact ⟨length_unityTaps _, List.length_replicate, hne.1, hne.2.1, hne.2.2, hlv, ha, effectiveStep_range _,
    effectiveStep_range _, (by decide : (0 : BitVec 32).toNat ≤ 2 ^ 31)⟩

theorem eqRequest_sound {m : CmdMsg} {q : EqCtx} (h : eqRequest m = some q) : q.Sound := by
  unfold eqRequest at h
  split at h
  · rename_i lv mode hlv _
    obtain rfl := Option.some.inj h
    exact EqCtx.start_sound (levelsOf_cases hlv) _ _ _ _ _
  · cases h

/-! ### Commands that a running job can hold (R107), taken now -/

/-- A command keeps the invariants where its refusals do and where, on a channel its sender holds, its owner does. -/
theorem withChan_keeps {s : State} {m : CmdMsg} {f : Chan → State × Reply} (h : ∀ c, s.Keeps (f c).1) :
    s.Keeps (withChan m s f).1 := by
  unfold withChan
  split
  · exact h _
  · exact .refl s

theorem asHolder_keeps {s : State} {l : Link} {m : CmdMsg} {f : Chan → State × Reply}
    (h : ∀ c, (s.chan c).HeldBy l → s.Keeps (f c).1) : s.Keeps (asHolder l m s f).1 := by
  refine withChan_keeps fun c => ?_
  by_cases hh : (s.chan c).HeldBy l
  · simp only [hh.holderRefusal]; exact h c hh
  · simp only [Channel.holderRefusal_other hh]; exact .refl s

theorem eqOpenNow_keeps (l : Link) (m : CmdMsg) (s : State) : s.Keeps (eqOpenNow l m s).1 := by
  refine asHolder_keeps fun c hh => ?_
  split
  · exact .refl s
  · rename_i q hq
    split
    · exact .refl s
    · refine .of_context (Life.runs_of_held hh) (some q) (fun q' hq' => ?_) _ (fun hle => ?_) (fun _ => ?_) (.inl rfl)
      · obtain rfl := Option.some.inj hq'; exact eqRequest_sound hq
      · show s.eqUsed - (s.chan c).eqTaps + q.ne + (s.chan c).eqTaps = s.eqUsed + q.ne
        omega
      · omega

theorem eqCloseNow_keeps (l : Link) {m : CmdMsg} {s : State} (hjob : ∀ c, chanOf m.chan = some c → s.jobRuns c = false) :
    s.Keeps (eqCloseNow l m s).1 := by
  unfold eqCloseNow asHolder withChan
  split
  · rename_i c hc
    by_cases hh : (s.chan c).HeldBy l
    · simp only [hh.holderRefusal]
      split
      · exact .refl s
      · refine (s.finishQueued_keeps c .noEq).trans (.of_context (s := s.finishQueued c .noEq) (c := c)
          (Life.runs_of_held hh) none nofun (s.eqUsed - (s.chan c).eqTaps) (fun hle => ?_)
          (fun h => (Nat.sub_le _ _).trans h) (.inr ⟨hjob c hc, fun l => State.finishQueued_none s c .noEq l⟩))
        have hle : (s.chan c).eqTaps ≤ s.eqUsed := hle
        show s.eqUsed - (s.chan c).eqTaps + (s.chan c).eqTaps = s.eqUsed + 0
        omega
    · simp only [Channel.holderRefusal_other hh]; exact .refl s
  · exact .refl s

theorem eqSetNow_keeps (l : Link) (m : CmdMsg) (s : State) : s.Keeps (eqSetNow l m s).1 := by
  refine asHolder_keeps fun c hh => ?_
  split
  · rename_i q mode hq _
    exact State.eqSet_keeps hh hq mode (effectiveStep_range _) (effectiveStep_range _)
  · exact .refl s

theorem clearTapsNow_keeps (l : Link) (m : CmdMsg) (s : State) : s.Keeps (clearTapsNow l m s).1 := by
  refine asHolder_keeps fun c hh => ?_
  dsimp only
  split
  · exact .refl s
  · split
    · exact .refl s
    · exact State.clearTaps_keeps hh _

theorem pokeNow_keeps (l : Link) (m : CmdMsg) (s : State) : s.Keeps (pokeNow l m s).1 := by
  refine asHolder_keeps fun c hh => ?_
  dsimp only
  split
  · exact .refl s
  · exact State.pokeTap_keeps hh _ _

end Sys2Proof.Machine

/-! SUPPORT. The frame operation of a channel, TX_BLOCK, and the changes of a channel's roles: SET_SHADOW, HANDOVER,
ACCEPT, DECLINE, ADOPT, and the end of an offer. -/

namespace Sys2Proof.Machine

/-! ### Frame operations (R26 to R31) -/

theorem State.Works.runs {s t : State} (h : s.Works t) {c : Chan} (hr : (s.chan c).state.runs = true) :
    (t.chan c).state.runs = true := by rw [h.life c]; exact hr

/-- Work on a list of running channels, one after the other. -/
theorem State.Works.foldl {f : State → Chan → State}
    (h : ∀ (s : State) (c : Chan), (s.chan c).state.runs = true → s.Works (f s c)) (cs : List Chan) (s : State)
    (hr : ∀ c ∈ cs, (s.chan c).state.runs = true) : s.Works (cs.foldl f s) := by
  induction cs generalizing s with
  | nil => exact .refl s
  | cons c cs ih =>
    have hc := h s c (hr c (by simp))
    exact hc.trans (ih _ fun c' hc' => hc.runs (hr c' (List.mem_cons_of_mem _ hc')))

theorem State.blockBoundary_works {s : State} {c : Chan} (hr : (s.chan c).state.runs = true) (samples : List Sample) :
    s.Works (s.blockBoundary c samples) := by
  have h1 := State.closeRxBlock_works hr samples
  have r1 := h1.runs hr
  have h2 := h1.trans (State.leakStep_works r1)
  have h3 := h2.trans (State.convergeStep_works (h2.runs hr))
  have h4 := h3.trans (State.divergeStep_works (h3.runs hr))
  have h5 := h4.trans (State.applyRetune_works (h4.runs hr))
  exact h5.trans (State.watchStep_works _ c _)

theorem State.appendError_works {s : State} {c : Chan} (hr : (s.chan c).state.runs = true) (e : Sample) :
    s.Works (s.appendError c e) := by
  unfold State.appendError
  dsimp only
  split
  · exact State.blockBoundary_works hr _
  · exact State.appendAsm_works hr (by omega)

theorem State.frameStages_works {s : State} {c : Chan} (hr : (s.chan c).state.runs = true) (x y : Sample) :
    s.Works (s.frameStages c x y) := by
  have h1 := State.writeHistory_works hr x
  have h2 := h1.trans (State.drive_works _ (s.chan c).slot x)
  have h3 := h2.trans (State.echo_works (h2.runs hr) ((s.writeHistory c x).drive (s.chan c).slot x).pool y)
  exact h3.trans (State.appendError_works (h3.runs hr) _)

theorem State.frameOp_works {s : State} {c : Chan} (hr : (s.chan c).state.runs = true) (inbound : Vector Sample 64) :
    s.Works (s.frameOp inbound c) := by
  have h1 := State.playoutSample_works hr
  have hs (x y : Sample) := h1.trans (State.frameStages_works (h1.runs hr) x y)
  unfold State.frameOp
  dsimp only
  split
  · exact hs _ _
  · exact hs _ _
  · exact hs _ _

theorem State.runFrame_works (s : State) (inbound : Vector Sample 64) : s.Works (s.runFrame inbound) := by
  have hdrive : ∀ (cs : List Chan) (t : State),
      t.Works (cs.foldl (fun s c => s.drive (s.chan c).slot (s.chan c).idle) t) := fun cs => by
    induction cs with
    | nil => exact fun t => .refl t
    | cons c cs ih => exact fun t => (State.drive_works t (t.chan c).slot (t.chan c).idle).trans (ih _)
  have h1 : s.Works s.undrive := .of_channels (.of_eq rfl) rfl
  have h2 := h1.trans (hdrive s.openingChans s.undrive)
  have hcount (t : State) : t.Works { t with freeCount := t.freeCount + 1 } := .of_channels (.of_eq rfl) rfl
  have h3 := h2.trans (hcount _)
  refine h3.trans (.foldl (fun s c hr => State.frameOp_works hr inbound) _ _ fun c hc => h3.runs ?_)
  have hmem : c ∈ s.runningChans := (sortByKey_perm _ _).mem_iff.mp hc
  unfold State.runningChans at hmem
  split at hmem
  · cases hmem
  · exact (List.mem_filter.mp hmem).2

theorem State.sync_keeps (s : State) (t : Nat) (inbound : Vector Sample 64) : s.Keeps (s.sync t inbound) := by
  unfold State.sync
  split
  · exact .refl s
  · split
    · unfold State.syncLocked
      split
      · split
        · exact (State.Keeps.of_eq rfl).trans (State.runFrame_works _ inbound).toKeeps
        · exact .refl s
      · exact .refl s
    · unfold State.syncAbsent
      split
      · split
        · unfold State.goodSync
          split
          · exact (State.Keeps.of_eq rfl).trans (State.notifyDevice_keeps _ _)
          · exact .of_eq rfl
        · exact .of_eq rfl
      · exact .of_eq rfl

theorem State.windowClosed_keeps (s : State) : s.Keeps s.windowClosed := by
  unfold State.windowClosed
  split
  · exact .refl s
  · split
    · split
      · exact (State.Keeps.of_eq rfl).trans (State.notifyDevice_keeps _ _)
      · exact .of_eq rfl
    · exact .of_eq rfl

/-! ### TX_BLOCK (R33 to R36) -/

/-- A block taken changes the playout, the counters and the flags. -/
theorem Channel.takeBlock_eq (ch : Channel) (q : Seq) (b : Block) :
    { ch with play := (ch.takeBlock q b).play, cnt := (ch.takeBlock q b).cnt, flags := (ch.takeBlock q b).flags } =
      ch.takeBlock q b := by
  unfold Channel.takeBlock
  dsimp only
  split_ifs <;> rfl

theorem Channel.takeBlock_sound {ch : Channel} (h : ch.Sound) (q : Seq) (b : Block) : (ch.takeBlock q b).Sound := by
  refine Channel.Sound.of_play h ?_ (ch.takeBlock_eq q b)
  have hp := Channel.Sound.play h
  unfold Channel.takeBlock
  dsimp only
  split_ifs
  · exact hp
  · exact Playout.startCheck_sound (Playout.store_sound hp ‹_› _)
  · exact Playout.startCheck_sound (Playout.jump_sound hp _ _)
  · exact hp

theorem Channel.runs_of_accepts {ch : Channel} {l : Link} (h : ch.acceptsBlock l = true) : ch.state.runs = true := by
  unfold Channel.acceptsBlock at h
  cases hs : ch.state <;> simp_all [Life.runs]

theorem State.foreignBlock_keeps (s : State) (l : Link) : s.Keeps (s.foreignBlock l) :=
  .updPort (.of_line ⟨rfl, rfl, rfl, rfl, rfl, rfl⟩ rfl rfl id id (fun _ => id) fun _ he => he)

theorem State.transmitBlock_keeps (s : State) (l : Link) (ch : ChanField) (q : Seq) (b : Block) :
    s.Keeps (s.transmitBlock l ch q b) := by
  unfold State.transmitBlock
  split
  · rename_i c _
    split
    · rename_i ha
      refine State.Keeps.trans (.updService ?_ (Channel.runs_of_accepts ha) (fun h => Channel.takeBlock_sound h q b) ?_)
        (State.watermark_keeps _ _ _) <;> rw [← (s.chan c).takeBlock_eq q b]
      exact ⟨rfl, rfl, rfl, rfl, rfl, rfl, rfl, rfl, rfl, rfl, rfl, rfl⟩
    · exact s.foreignBlock_keeps l
  · exact s.foreignBlock_keeps l

/-! ### Changes of roles -/

/-- A record whose lifecycle state, roles, rx queue, gears and EQ context change, its accounts staying. -/
theorem Channel.Change.of_role {a b : Channel} {down : Link → Bool} (hf : b.state = .free ↔ a.state = .free)
    (ho : b.state = .opening ↔ a.state = .opening) (hne : a ≠ Channel.free) (hs : a.Sound → b.Sound)
    (hroles : a.RolesSound down → b.RolesSound down) {f : EqCtx → EqCtx} (heq : b.eq = a.eq.map f)
    (hn : ∀ q, (f q).ne = q.ne) (hq : ∀ q : EqCtx, q.Sound → (f q).Sound)
    (hacc : b.slot = a.slot ∧ b.charge = a.charge ∧ b.pages = a.pages ∧ b.nn = a.nn ∧ b.nf = a.nf ∧
      b.retune.map Retune.nf = a.retune.map Retune.nf) : a.Change down b where
  isFree := hf
  isOpening := ho
  sound := hs
  roles := hroles
  free h := absurd h hne
  eqTaps := by
    unfold Channel.eqTaps
    rw [heq]
    cases a.eq with
    | none => rfl
    | some q => exact hn q
  eqSome := by rw [heq, Option.isSome_map]
  eqSound ha q hb := by
    rw [heq] at hb
    obtain ⟨q', hq', rfl⟩ := Option.map_eq_some_iff.mp hb
    exact hq q' (ha q' hq')
  account := hacc

/-- A record whose lifecycle state, roles and rx queue change. -/
theorem Channel.Sound.of_role {a b : Channel} (h : a.Sound) (hf : b.state = .free ↔ a.state = .free)
    (ho : b.state = .opening ↔ a.state = .opening) (horph : b.state = .orphaned → a.state = .orphaned)
    (hb : { a with
      state := b.state, holder := b.holder, copy := b.copy, saved := b.saved, offer := b.offer, rxq := b.rxq } = b) :
    b.Sound := by
  obtain ⟨h1, h2, h3, h4, h5, h6, h7, h8, h9, h10, h11, h12, h13, h14, h15, h16⟩ := h
  have h4' : b.state ≠ .free → a.PagesSound := fun hn => h4 (mt hf.mpr hn)
  have h5' : b.state = .opening → a.retune = none := fun hn => h5 (ho.mp hn)
  have h16' : b.state = .orphaned → a.Holds := fun hn => h16 (horph hn)
  rw [← hb] at *
  exact ⟨h1, h2, h3, h4', h5', h6, h7, h8, h9, h10, h11, h12, h13, h14, h15, h16'⟩

/-- The edit of the pending sets leaves a sound queue for the holder and the copy destination (R84). -/
theorem Channel.editRx_queueSound {ch : Channel} (hl : ch.rxq.length ≤ Config.rxDepth) (hn : ∀ e ∈ ch.rxq, e.due.Nodup) :
    ch.editRx.QueueSound := by
  refine ⟨?_, fun e he => ?_⟩
  · refine le_trans ?_ hl
    show (editQueue _ ch.rxq).length ≤ _
    unfold editQueue
    exact (List.length_filter_le _ _).trans (List.length_map _).le
  · obtain ⟨hd, x, hx, rfl⟩ := mem_editQueue.mp he
    refine ⟨hd, (hn x hx).filter _, fun l hl => ?_⟩
    have := (List.mem_filter.mp hl).2
    simpa [Channel.editRx] using this

theorem Channel.HeldBy.ne_free {ch : Channel} {l : Link} (h : ch.HeldBy l) : ch ≠ Channel.free := fun hc =>
  h.not_free (by rw [hc]; rfl)

/-- A change of the roles of a record alone. -/
theorem Channel.Change.of_roles {a b : Channel} {down : Link → Bool} (hf : b.state = .free ↔ a.state = .free)
    (ho : b.state = .opening ↔ a.state = .opening) (horph : b.state = .orphaned → a.state = .orphaned)
    (hne : a ≠ Channel.free)
    (hb : { a with
      state := b.state, holder := b.holder, copy := b.copy, saved := b.saved, offer := b.offer, rxq := b.rxq } = b)
    (hroles : a.RolesSound down → b.RolesSound down) : a.Change down b := by
  refine .of_role hf ho hne (fun h => h.of_role hf ho horph hb) hroles (f := id) ?_ (fun _ => rfl) (fun _ => id) ?_ <;>
    rw [← hb]
  · exact Option.map_id_fun.symm ▸ rfl
  · exact ⟨rfl, rfl, rfl, rfl, rfl, rfl⟩

/-- The roles of a record whose pending sets are edited. -/
theorem Channel.RolesSound.editRx {a b : Channel} {down : Link → Bool} (h : a.RolesSound down) (hq : b.rxq = a.rxq)
    (hb : { b with rxq := [] }.RolesSound down) : b.editRx.RolesSound down := by
  obtain ⟨-, -, -, -, -, -, -, -, -, h10, h11⟩ := h
  obtain ⟨b1, b2, b3, b4, b5, b6, b7, b8, b9, -, -⟩ := hb
  obtain ⟨q1, q2⟩ := Channel.editRx_queueSound (ch := b) (hq ▸ h10) (hq ▸ fun e he => (h11 e he).2.1)
  exact ⟨b1, b2, b3, b4, b5, b6, b7, b8, b9, q1, q2⟩

/-! ### SET_SHADOW (R113) -/

theorem Channel.shadowTo_change {ch : Channel} {l : Link} (h : ch.HeldBy l) {down : Link → Bool} {k : Option Link}
    (hl : k ≠ some l) (hk : ∀ i, k = some i → down i = false) : ch.Change down (ch.shadowTo k) := by
  have hne := h.ne_free
  obtain ⟨hstate, hholder⟩ := h
  have hother : ∀ i, ch.holder = some i → k ≠ some i := fun i hi => by rw [hholder] at hi; rwa [← Option.some.inj hi]
  unfold Channel.shadowTo
  split
  · rename_i hp
    refine .of_roles .rfl .rfl id hne rfl ?_
    rintro ⟨h1, h2, h3, h4, h5, h6, h7, h8, h9, h10, h11⟩
    refine ⟨h1, h2, fun i hi => ⟨(h3 i hi).1, (h3 i hi).2.1, hother i hi⟩, h4, hk, h6, h7, fun ho => ?_, h9, h10, h11⟩
    have := h6 hp
    rw [(ho : ch.offer = none)] at this
    cases this
  · rename_i hp
    have hactive : ch.state = .active := hstate.resolve_right hp
    refine .of_roles .rfl .rfl id hne rfl fun hr => hr.editRx rfl ?_
    obtain ⟨h1, h2, h3, h4, h5, h6, h7, h8, h9, -, -⟩ := hr
    have hoffer : ch.offer = none := by
      cases ho : ch.offer with
      | none => rfl
      | some o =>
        obtain ⟨h, -⟩ := h7 o ho
        rw [hactive] at h
        rcases h with h | h <;> cases h
    refine ⟨h1, h2, fun i hi => ⟨(h3 i hi).1, hother i hi, (h3 i hi).2.2⟩, hk, h5, h6, fun o ho => ?_, h8, h9,
      Nat.zero_le _, nofun⟩
    rw [hoffer] at ho
    cases ho

theorem Channel.shadowTo_held {ch : Channel} {l : Link} (k : Option Link) (h : ch.HeldBy l) : (ch.shadowTo k).HeldBy l := by
  unfold Channel.shadowTo
  split <;> exact h

/-! ### HANDOVER (R118) -/

theorem Channel.offerTo_change {ch : Channel} {l : Link} (h : ch.HeldBy l) (hactive : ch.state = .active)
    {down : Link → Bool} {k : Link} (hl : k ≠ l) (hk : down k = false) (w : Nat) : ch.Change down (ch.offerTo k w) := by
  have hne := h.ne_free
  obtain ⟨-, hholder⟩ := h
  refine .of_roles ?_ ?_ nofun hne rfl fun hr => Channel.RolesSound.editRx hr rfl ?_
  · rw [hactive]; exact ⟨nofun, nofun⟩
  · rw [hactive]; exact ⟨nofun, nofun⟩
  · obtain ⟨h1, h2, h3, h4, h5, h6, h7, h8, h9, -, -⟩ := hr
    refine ⟨fun _ => h1 (.inl hactive), nofun, fun i hi => ⟨(h3 i hi).1, ?_, (h3 i hi).2.1⟩, fun i hi => ?_, h4,
      fun _ => rfl, fun o ho => ?_, nofun, h9, Nat.zero_le _, nofun⟩
    · have hi : ch.holder = some i := hi
      rw [hholder] at hi
      obtain rfl := Option.some.inj hi
      exact fun hc => hl (Option.some.inj hc)
    · obtain rfl := Option.some.inj hi; exact hk
    · obtain rfl := Option.some.inj ho; exact ⟨.inl rfl, rfl⟩

/-! ### The end of an offer (R119, R121) -/

theorem Channel.backToActive_cases (ch : Channel) :
    (ch.state = .handoverPending ∧ ch.backToActive = { ch with state := .active }) ∨
      (ch.state ≠ .handoverPending ∧ ch.backToActive = ch) := by
  unfold Channel.backToActive
  split
  · exact .inl ⟨‹_›, rfl⟩
  · exact .inr ⟨‹_›, rfl⟩

/-- Roles that are sound stay so when the offer ends. -/
theorem Channel.endOffer_roles {ch : Channel} {down : Link → Bool} (h : ch.RolesSound down) :
    { ch.endOffer.backToActive with rxq := [] }.RolesSound down := by
  obtain ⟨h1, h2, h3, h4, h5, h6, h7, h8, h9, -, -⟩ := h
  rcases ch.endOffer.backToActive_cases with ⟨hs, hb⟩ | ⟨hs, hb⟩ <;> rw [hb]
  · exact ⟨fun _ => h1 (.inr hs), nofun, fun i hi => ⟨(h3 i hi).1, (h3 i hi).2.2, nofun⟩, h5, nofun, nofun, nofun,
      fun _ => rfl, h9, Nat.zero_le _, nofun⟩
  · exact ⟨h1, h2, fun i hi => ⟨(h3 i hi).1, (h3 i hi).2.2, nofun⟩, h5, nofun, fun hp => absurd hp hs, nofun, fun _ => rfl, h9,
      Nat.zero_le _, nofun⟩

theorem Channel.ne_free_of_offer {ch : Channel} {o : Offer} (h : ch.offer = some o) : ch ≠ Channel.free := by
  rintro rfl; cases h

theorem Channel.backToActive_state (ch : Channel) : (ch.backToActive.state = .free ↔ ch.state = .free) ∧
    (ch.backToActive.state = .opening ↔ ch.state = .opening) ∧ (ch.backToActive.state = .orphaned → ch.state = .orphaned) := by
  rcases ch.backToActive_cases with ⟨hs, hb⟩ | ⟨hs, hb⟩ <;> rw [hb]
  · rw [hs]; exact ⟨⟨nofun, nofun⟩, ⟨nofun, nofun⟩, nofun⟩
  · exact ⟨.rfl, .rfl, id⟩

theorem Channel.offerFailed_change {ch : Channel} {o : Offer} (ho : ch.offer = some o) (down : Link → Bool) :
    ch.Change down ch.offerFailed := by
  obtain ⟨h1, h2, h3⟩ := ch.endOffer.backToActive_state
  refine .of_roles h1 h2 h3 (ch.ne_free_of_offer ho) ?_ fun hr => Channel.RolesSound.editRx hr ?_ (Channel.endOffer_roles hr)
  · unfold Channel.offerFailed
    rcases ch.endOffer.backToActive_cases with ⟨hs, hb⟩ | ⟨hs, hb⟩ <;> rw [hb] <;> rfl
  · rcases ch.endOffer.backToActive_cases with ⟨hs, hb⟩ | ⟨hs, hb⟩ <;> rw [hb] <;> rfl

theorem Channel.offerFailed_held {ch : Channel} {l : Link} (h : ch.HeldBy l) : ch.offerFailed.HeldBy l := by
  obtain ⟨hs, hh⟩ := h
  unfold Channel.offerFailed
  rcases ch.endOffer.backToActive_cases with ⟨hp, hb⟩ | ⟨hp, hb⟩ <;> rw [hb]
  · exact ⟨.inl rfl, hh⟩
  · exact ⟨hs, hh⟩

theorem State.offerFailed_keeps {s : State} {c : Chan} {o : Offer} (ho : (s.chan c).offer = some o) :
    s.Keeps (s.updChan c Channel.offerFailed) :=
  .updChan (Channel.offerFailed_change ho _) fun _ => Channel.offerFailed_held

/-- The countdown of an offer's window (R119). -/
theorem State.tickOffer_keeps {s : State} {c : Chan} {o : Offer} (ho : (s.chan c).offer = some o) (w : Nat) :
    s.Keeps (s.updChan c fun ch => { ch with offer := some { o with window := w } }) := by
  refine .updChan (.of_roles .rfl .rfl id (Channel.ne_free_of_offer ho) rfl ?_) fun _ => id
  rintro ⟨h1, h2, h3, h4, h5, h6, h7, h8, h9, h10, h11⟩
  exact ⟨h1, h2, h3, h4, h5, fun _ => rfl, fun o' ho' => by obtain rfl := Option.some.inj ho'; exact h7 o ho, nofun, h9, h10,
    h11⟩

/-! ### ADOPT and ACCEPT (R116, R120) -/

/-- The gears come back, and a sound record stays so, when the orphan hold ends (R70). -/
theorem Channel.restoreGears_sound {ch : Channel} (h : ch.Sound) (hs : ch.state ≠ .orphaned) : ch.restoreGears.Sound := by
  obtain ⟨h1, h2, h3, h4, h5, h6, h7, h8, h9, h10, h11, h12, h13, h14, h15, -⟩ := h
  exact ⟨h1, Filter.restore_sound h2, Filter.restore_sound h3, h4, h5, h6, h7, h8, h9, h10, h11, h12, h13, h14, h15,
    fun ho => absurd ho hs⟩

/-- A record whose service has link `l` as its holder and no offer any more. -/
def Channel.heldAs (ch : Channel) (l : Link) (copy saved : Option Link) : Channel :=
  { ch with holder := some l, state := .active, copy := copy, offer := none, saved := saved }

theorem Channel.heldAs_roles {ch : Channel} {down : Link → Bool} (h : ch.RolesSound down) {l : Link} (hl : down l = false)
    {copy : Option Link} (hc : copy ≠ some l) (hd : ∀ i, copy = some i → down i = false) :
    (ch.heldAs l copy none).editRx.RolesSound down := by
  refine Channel.RolesSound.editRx h rfl ?_
  obtain ⟨-, -, -, -, -, -, -, -, h9, -, -⟩ := h
  exact ⟨fun _ => rfl, nofun, fun i hi => (by obtain rfl := Option.some.inj hi; exact ⟨hl, hc, nofun⟩), hd, nofun, nofun, nofun,
    fun _ => rfl, h9, Nat.zero_le _, nofun⟩

theorem Channel.heldAs_sound {ch : Channel} (h : ch.Sound) (hr : ch.state.runs = true) (l : Link) (copy saved : Option Link) :
    (ch.heldAs l copy saved).editRx.Sound := by
  obtain ⟨hf, ho⟩ := (Life.runs_iff _).mp hr
  exact Channel.Sound.of_role h ⟨nofun, fun hc => absurd hc hf⟩ ⟨nofun, fun hc => absurd hc ho⟩ nofun rfl

/-- The record of a running channel that a link has taken over, with or without the end of the orphan hold. -/
theorem Channel.heldAs_change {ch : Channel} (hr : ch.state.runs = true) {down : Link → Bool} {l : Link}
    (hl : down l = false) {copy saved : Option Link} (hc : copy ≠ some l)
    (hroles : ch.RolesSound down → (∀ i, copy = some i → down i = false) ∧ saved = none) :
    ch.Change down (ch.heldAs l copy saved).editRx ∧ ch.Change down (ch.heldAs l copy saved).editRx.restoreGears := by
  obtain ⟨hf, ho⟩ := (Life.runs_iff _).mp hr
  have hne : ch ≠ Channel.free := by rintro rfl; cases hr
  have hrole : ch.RolesSound down → (ch.heldAs l copy saved).editRx.RolesSound down := fun h => by
    obtain ⟨hd, rfl⟩ := hroles h
    exact Channel.heldAs_roles h hl hc hd
  refine ⟨.of_roles ⟨nofun, fun hc => absurd hc hf⟩ ⟨nofun, fun hc => absurd hc ho⟩ nofun hne rfl hrole,
    .of_role ⟨nofun, fun hc => absurd hc hf⟩ ⟨nofun, fun hc => absurd hc ho⟩ hne (fun h => ?_) hrole
      (f := fun q => { q with mode := q.resume }) rfl (fun _ => rfl) (fun _ => id) ⟨rfl, rfl, rfl, rfl, rfl, rfl⟩⟩
  exact Channel.restoreGears_sound (Channel.heldAs_sound h hr l copy saved) nofun

/-- The copy destination that a record has without its offer (R116). -/
def Channel.shadow (ch : Channel) : Option Link := if ch.offer.isSome then ch.saved else ch.copy

/-- The copy destination that an ADOPT by link `l` leaves (R116). -/
def Channel.adoptedCopy (ch : Channel) (l : Link) : Option Link := if ch.shadow = some l then none else ch.shadow

theorem Channel.adoptedBy_eq (ch : Channel) (l : Link) : ch.adoptedBy l =
    (ch.heldAs l (ch.adoptedCopy l) (if ch.offer.isSome then none else ch.saved)).editRx.restoreGears := by
  unfold Channel.adoptedBy Channel.adoptedCopy Channel.shadow Channel.heldAs Channel.dropOwnCopy
  cases ho : ch.offer with
  | none =>
    simp only [Option.isSome_none, Bool.false_eq_true, if_false]
    split <;> simp_all [Channel.editRx, Channel.restoreGears]
  | some o =>
    simp only [Option.isSome_some, if_true, Channel.endOffer]
    split <;> simp_all [Channel.editRx, Channel.restoreGears]

theorem Channel.adoptedCopy_ne (ch : Channel) (l : Link) : ch.adoptedCopy l ≠ some l := by
  unfold Channel.adoptedCopy
  split
  · nofun
  · assumption

theorem Channel.adoptedBy_change {ch : Channel} (ho : ch.state = .orphaned) {down : Link → Bool} {l : Link}
    (hl : down l = false) : ch.Change down (ch.adoptedBy l) := by
  rw [Channel.adoptedBy_eq]
  refine (Channel.heldAs_change (by rw [ho]; rfl) hl (ch.adoptedCopy_ne l) fun h => ?_).2
  obtain ⟨-, -, -, h4, h5, -, -, h8, -⟩ := h
  refine ⟨fun i hi => ?_, ?_⟩
  · unfold Channel.adoptedCopy at hi
    split at hi
    · cases hi
    · unfold Channel.shadow at hi
      split at hi
      · exact h5 i hi
      · exact h4 i hi
  · split
    · rfl
    · rename_i hn; exact h8 (by simpa using hn)

theorem Channel.acceptedBy_eq (ch : Channel) (l : Link) : ch.acceptedBy l =
    if ch.state = .orphaned then (ch.heldAs l none none).editRx.restoreGears else (ch.heldAs l none none).editRx := rfl

theorem Channel.acceptedBy_change {ch : Channel} (hr : ch.state.runs = true) {down : Link → Bool} {l : Link}
    (hl : down l = false) : ch.Change down (ch.acceptedBy l) := by
  have h := Channel.heldAs_change hr hl (copy := none) (saved := none) nofun fun _ => ⟨nofun, rfl⟩
  rw [Channel.acceptedBy_eq]
  split
  · exact h.2
  · exact h.1

theorem State.withdrawFor_keeps (s : State) (c : Chan) (l : Link) : s.Keeps (s.withdrawFor c l) := by
  unfold State.withdrawFor
  split
  · split
    · exact .refl s
    · exact s.withdrawOffer_keeps c _
  · exact .refl s

@[simp] theorem State.isDown_notify (s : State) (l i : Link) (n : Notice) : (s.notify l n).isDown i = s.isDown i := by
  rw [State.isDown, State.port_notify, State.isDown]; split <;> simp

theorem State.withdrawFor_same (s : State) (c : Chan) (l : Link) :
    s.SameButPorts (s.withdrawFor c l) ∧ ∀ i, (s.withdrawFor c l).isDown i = s.isDown i := by
  unfold State.withdrawFor
  split
  · split
    · exact ⟨.rfl' s, fun _ => rfl⟩
    · refine ⟨s.withdrawOffer_sameButPorts c _, fun i => ?_⟩
      unfold State.withdrawOffer
      split
      · exact s.isDown_notify _ i _
      · rfl
  · exact ⟨.rfl' s, fun _ => rfl⟩

theorem State.adoptTaken_keeps {s : State} {c : Chan} {l : Link} (ho : (s.chan c).state = .orphaned)
    (hl : s.isDown l = false) : s.Keeps (s.adoptTaken c l) := by
  obtain ⟨hsame, hdown⟩ := s.withdrawFor_same c l
  have hchan := hsame.chan c
  refine ((s.withdrawFor_keeps c l).trans (State.Keeps.setChan ?_ fun i _ hh => ?_)).trans (State.notifyEach_keeps _ _ _)
  · rw [hchan]; exact Channel.adoptedBy_change ho (by rw [hdown]; exact hl)
  · rw [hchan] at hh
    exact absurd ho hh.not_orphaned

theorem Channel.runs_of_offeredTo {ch : Channel} {l : Link} (h : ch.offeredTo l = true) : ch.state.runs = true := by
  simp only [Channel.offeredTo, Bool.and_eq_true, Bool.or_eq_true, beq_iff_eq] at h
  obtain ⟨h | h, -⟩ := h <;> rw [h] <;> rfl

theorem State.dismissHolder_same (s : State) (c : Chan) :
    (∀ c', (s.dismissHolder c).chan c' = s.chan c') ∧ ∀ i, (s.dismissHolder c).isDown i = s.isDown i := by
  unfold State.dismissHolder
  split
  · rename_i h _
    refine ⟨fun _ => rfl, fun i => ?_⟩
    rw [State.isDown, State.port_finishQueuedOf, State.isDown]
    split
    · rename_i hi; rw [hi]; rfl
    · rfl
  · exact ⟨fun _ => rfl, fun _ => rfl⟩

theorem State.dismissHolder_keeps (s : State) (c : Chan) : s.Keeps (s.dismissHolder c) := by
  unfold State.dismissHolder
  split
  · exact s.finishQueuedOf_keeps _ c _
  · exact .refl s

/-- After the former holder is dismissed it has no QUEUED job of the channel. -/
theorem State.dismissHolder_none {s : State} {c : Chan} {l : Link} (hh : (s.chan c).holder = some l) :
    ∀ j ∈ ((s.dismissHolder c).port l).jobs, j.state = .queued → chanOf j.chan ≠ some c := by
  intro j hj
  unfold State.dismissHolder at hj
  simp only [hh, State.port_finishQueuedOf, if_true] at hj
  exact LinkPort.finishQueued_none hj

theorem State.tellAccepted_keeps (s : State) (c : Chan) (l : Link) (before : Channel) :
    s.Keeps (s.tellAccepted c l before) := by
  unfold State.tellAccepted
  split <;> exact State.notifyEach_keeps _ _ _

theorem State.acceptTaken_keeps {s : State} {c : Chan} {l : Link} (ho : (s.chan c).offeredTo l = true)
    (hl : s.isDown l = false) :
    s.Keeps (((s.dismissHolder c).setChan c ((s.chan c).acceptedBy l)).tellAccepted c l (s.chan c)) := by
  obtain ⟨hchan, hdown⟩ := s.dismissHolder_same c
  refine ((s.dismissHolder_keeps c).trans (.setChan ?_ fun i hj hh => ?_)).trans (State.tellAccepted_keeps _ _ _ _)
  · rw [hchan]; exact Channel.acceptedBy_change (Channel.runs_of_offeredTo ho) (by rw [hdown]; exact hl)
  · rw [hchan] at hh
    obtain ⟨j, hj, hq, hjc⟩ := hj
    exact absurd hjc (State.dismissHolder_none hh.2 j hj hq)

end Sys2Proof.Machine

/-! SUPPORT. The equalizer service's jobs (chapter 6): a job takes a slot, the engine takes it, pushes its inputs and
completes it, with the commands held behind it. -/

namespace Sys2Proof.Machine

/-- A step on the jobs, on the ports and in the engine, the records and everything else staying. -/
theorem State.Keeps.of_jobs {s t : State}
    (hrest : { s with links := t.links, engine := t.engine, eqLast := t.eqLast, held := t.held } = t)
    (hdown : ∀ l, (t.port l).state = .down → (s.port l).state = .down) (hports : s.PortsSound → t.PortsSound)
    (heq : s.RolesSound → s.EqSound → t.EqSound) : s.Keeps t where
  pending := by rw [← hrest]
  pool h := by rw [← hrest]; exact h
  accounts h := by rw [← hrest]; exact h
  channels h c := by rw [← hrest]; exact h c
  roles h c := by
    have hc : t.chan c = s.chan c := by rw [← hrest]; rfl
    rw [hc]
    exact (h c).of_down fun l hl => by
      simp only [State.isDown, beq_eq_false_iff_ne, ne_eq] at hl ⊢
      exact mt (hdown l) hl
  ports := hports
  eq := heq

/-- The equalizer service stays sound while the records stay. -/
theorem State.EqSound.of_same {s t : State} (hchan : ∀ c, t.chan c = s.chan c) (hused : t.eqUsed = s.eqUsed)
    (hquiet : s.ResetQuiet → t.ResetQuiet)
    (hengine : ∀ e, t.engine = some e → e.closed = false →
      (s.chan e.chan).state.runs = true ∧ (s.chan e.chan).eq.isSome = true)
    (hqueued : ∀ l, ∀ j ∈ (t.port l).jobs, j.state = .queued →
      ∃ c, chanOf j.chan = some c ∧ (s.chan c).HeldBy l ∧ (s.chan c).eq.isSome = true)
    (hs : s.EqSound) : t.EqSound :=
  hs.of_moves (down := s.isDown) hused (fun c => by rw [hchan]; exact .refl _ _) hquiet hengine fun l j hj hq => by
    obtain ⟨c, hjc, hh, hsome⟩ := hqueued l j hj hq
    exact ⟨c, hjc, by rw [hchan]; exact hh, hsome⟩

/-! ### A job takes a slot (R96, R97) -/

theorem LinkPort.freeJobPlace_free {p : LinkPort} {k : Fin 4} (h : p.freeJobPlace = some k) :
    ∀ j ∈ p.jobs, j.place ≠ k := by
  have := List.find?_some h
  simpa using this

theorem LinkPort.addJob_sound {p : LinkPort} (h : p.Sound) (hup : p.state ≠ .down) {j : Job}
    (hfree : ∀ i ∈ p.jobs, i.place ≠ j.place) (hs : j.isSending = false) : (p.addJob j).Sound := by
  have hmem := h.mem_ready
  have hsend := fun k => h.sending (k := k)
  obtain ⟨h1, h2, h3, h4, h5, h6, h7, -, h9, -, -⟩ := h
  have hready : (p.addJob j).ready = if j.isReady then p.ready ++ [j.place] else p.ready := by
    unfold LinkPort.addJob Job.isReady
    cases j.state <;> rfl
  have hnew : j.place ∉ p.ready := fun hk => by
    obtain ⟨i, hi, hik, -⟩ := (hmem _).mp hk
    exact hfree i hi hik
  refine ⟨h1, ?_, h3, h4, h5, h6, h7, fun hd => absurd hd hup, ?_, fun k => ?_, fun k hk => ?_⟩
  · simp only [LinkPort.addJob, List.map_append, List.map_cons, List.map_nil]
    refine List.nodup_append.mpr ⟨h2, by simp, fun a ha b hb => ?_⟩
    obtain ⟨i, hi, rfl⟩ := List.mem_map.mp ha
    rw [List.mem_singleton.mp hb]
    exact hfree i hi
  · rw [hready]
    split
    · exact List.nodup_append.mpr ⟨h9, by simp, fun a ha b hb => by
        rw [List.mem_singleton.mp hb]; rintro rfl; exact hnew ha⟩
    · exact h9
  · have hjobs : (p.addJob j).jobs = p.jobs ++ [j] := rfl
    rw [hready, hjobs]
    cases hr : j.isReady with
    | true =>
      simp only [if_true, List.mem_append, List.mem_singleton, hmem k]
      constructor
      · rintro (⟨i, hi, h⟩ | rfl)
        · exact ⟨i, .inl hi, h⟩
        · exact ⟨j, .inr rfl, rfl, hr⟩
      · rintro ⟨i, hi | rfl, hik, h⟩
        · exact .inl ⟨i, hi, hik, h⟩
        · exact .inr hik.symm
    | false =>
      simp only [Bool.false_eq_true, if_false, List.mem_append, List.mem_singleton, hmem k]
      constructor
      · rintro ⟨i, hi, h⟩
        exact ⟨i, .inl hi, h⟩
      · rintro ⟨i, hi | rfl, hik, h⟩
        · exact ⟨i, hi, hik, h⟩
        · rw [hr] at h; cases h
  · obtain ⟨i, hi, h⟩ := hsend k hk
    exact ⟨i, List.mem_append_left _ hi, h⟩

/-- A new job begins QUEUED only for the holder of a channel with a context, or with a result at once (R97). -/
theorem State.jobBegins_cases (s : State) (l : Link) (f : ChanField) :
    (s.jobBegins l f = .queued ∧ ∃ c, chanOf f = some c ∧ (s.chan c).eq.isSome = true ∧ (s.chan c).holder = some l ∧
      (s.chan c).state ≠ .free ∧ (s.chan c).state ≠ .opening) ∨
    ∃ st, s.jobBegins l f = .ready (EqResult.bare st) := by
  unfold State.jobBegins
  split
  · rename_i c hc
    split
    · exact .inr ⟨_, rfl⟩
    · rename_i hcond
      split
      · rename_i hh
        refine .inl ⟨rfl, c, hc, ?_, hh, ?_⟩
        · cases he : (s.chan c).eq <;> simp_all
        · simp only [Bool.or_eq_true, decide_eq_true_eq, not_or] at hcond
          exact hcond.2
      · exact .inr ⟨_, rfl⟩
  · exact .inr ⟨_, rfl⟩

theorem State.addJob_keeps {s : State} {l : Link} (hup : (s.port l).state = .up) (hclear : s.clear = .none) {k : Fin 4}
    (hk : (s.port l).freeJobPlace = some k) (f : ChanField) (tag : Tag) (ws : List Word) :
    s.Keeps (s.updPort l (·.addJob (jobOf k f tag ws (s.jobBegins l f)))) := by
  generalize hj : jobOf k f tag ws (s.jobBegins l f) = j
  have hplace : j.place = k := by rw [← hj]; rfl
  have hchan : j.chan = f := by rw [← hj]; rfl
  have hstate : j.state = s.jobBegins l f := by rw [← hj]; rfl
  have hidle : j.state ≠ .running ∧ j.isSending = false := by
    rw [Job.isSending, hstate]
    rcases s.jobBegins_cases l f with ⟨h, -⟩ | ⟨st, h⟩ <;> rw [h] <;> exact ⟨nofun, rfl⟩
  have hmem (l' : Link) (i : Job) (hi : i ∈ ((s.updPort l (·.addJob j)).port l').jobs) :
      i ∈ (s.port l').jobs ∨ l' = l ∧ i = j := by
    rw [State.port_updPort_ite] at hi
    split at hi
    · rename_i hl
      rcases List.mem_append.mp (hi : i ∈ (s.port l).jobs ++ [j]) with h | h
      · exact .inl (hl ▸ h)
      · exact .inr ⟨hl, List.mem_singleton.mp h⟩
    · exact .inl hi
  have hquiet : (s.updPort l (·.addJob j)).ResetQuiet := fun hc => absurd hclear hc
  refine .of_jobs rfl (fun l' hd => ?_) (fun hs =>
      State.PortsSound.of_running (s := s) (fun l' hp => ?_) (fun l' _ i hi => ?_) (fun _ => hquiet) rfl hs)
    fun hroles hs => State.EqSound.of_same (s := s) (fun _ => rfl) rfl (fun _ => hquiet) (fun e he hcl => ?_)
      (fun l' i hi hq => ?_) hs
  · rw [State.port_updPort_ite] at hd
    split at hd
    · rename_i hl; rw [hl]; exact hd
    · exact hd
  · rw [State.port_updPort_ite]
    split
    · rename_i hl
      subst hl
      exact LinkPort.addJob_sound hp (by rw [hup]; nofun) (hplace ▸ LinkPort.freeJobPlace_free hk) hidle.2
    · exact hp
  · refine ⟨fun h => (hmem l' i h).resolve_right ?_, fun h => ?_⟩
    · rintro ⟨-, rfl⟩; exact hidle.1 hi
    · rw [State.port_updPort_ite]
      split
      · rename_i hl; subst hl; exact List.mem_append_left _ h
      · exact h
  · exact hs.engine_of_seat (t := s) rfl e he hcl
  · rcases hmem l' i hi with h | ⟨rfl, rfl⟩
    · obtain ⟨-, -, -, -, -, h6, -⟩ := hs
      exact h6 l' i h hq
    · rcases s.jobBegins_cases l' f with ⟨-, c, hc, hsome, hh, hf, ho⟩ | ⟨st, h⟩
      · refine ⟨c, hchan ▸ hc, ⟨?_, hh⟩, hsome⟩
        obtain ⟨-, h2, -⟩ := hroles c
        cases hst : (s.chan c).state with
        | free => exact absurd hst hf
        | opening => exact absurd hst ho
        | active => exact .inl rfl
        | handoverPending => exact .inr rfl
        | orphaned => rw [h2 (.inl hst)] at hh; cases hh
      · rw [hstate, h] at hq; cases hq

theorem State.skipJob_keeps (s : State) (l : Link) (f : ChanField) (tag : Tag) : s.Keeps (s.skipJob l f tag) := by
  unfold State.skipJob
  dsimp only
  refine State.Keeps.trans ?_ (State.notify_keeps _ _ _)
  split
  · split
    · exact State.free_keeps ‹_› (fun r => { r with cnt :=
          { r.cnt with eqJobsSkipped := stick16 r.cnt.eqJobsSkipped } }) rfl
    · exact .refl s
  · exact .refl s

theorem State.submitJob_keeps {s : State} {l : Link} (hup : (s.port l).state = .up) (hclear : s.clear = .none)
    (f : ChanField) (tag : Tag) (ws : List Word) : s.Keeps (s.submitJob l f tag ws) := by
  unfold State.submitJob
  split
  · exact State.addJob_keeps hup hclear ‹_› f tag ws
  · exact s.skipJob_keeps l f tag

/-! ### The engine takes a job and pushes its inputs (R98, R100 to R105) -/

/-- A QUEUED job of a port within its limits becomes RUNNING in its slot. -/
theorem LinkPort.runJob_sound {p : LinkPort} (h : p.Sound) {j : Job} (hj : j ∈ p.jobs) (hq : j.state = .queued) :
    (p.updJob j.place fun i => { i with state := .running }).Sound := by
  have hat : ∀ i ∈ p.jobs, i.place = j.place → i.isReady = false ∧ i.isSending = false := fun i hi hij => by
    rw [h.job_unique hi hj hij, Job.isReady, Job.isSending, hq]
    exact ⟨rfl, rfl⟩
  refine h.of_jobs ⟨rfl, rfl, rfl, rfl, rfl, rfl⟩ rfl le_rfl
    (fun i => if i.place = j.place then { i with state := .running } else i) (fun i =>
        by split <;> rfl) rfl h.ready_nodup
    (fun k => ?_) (fun k hk => ?_) fun hd => ?_
  · refine (h.mem_ready k).trans ⟨?_, ?_⟩
    · rintro ⟨i, hi, hik, hr⟩
      refine ⟨i, hi, hik, ?_⟩
      rw [if_neg fun hij => ?_]
      · exact hr
      · rw [(hat i hi hij).1] at hr; cases hr
    · rintro ⟨i, hi, hik, hr⟩
      split at hr
      · cases hr
      · exact ⟨i, hi, hik, hr⟩
  · obtain ⟨i, hi, hik, hs⟩ := h.sending hk
    refine ⟨i, hi, hik, ?_⟩
    rw [if_neg fun hij => ?_]
    · exact hs
    · rw [(hat i hi hij).2] at hs; cases hs
  · obtain ⟨-, -, -, -, -, he, -⟩ := h.emptied hd
    rw [he] at hj
    cases hj

theorem State.startJob_keeps {s : State} {l : Link} {j : Job} {c : Chan} (hidle : s.engine = none)
    (hj : j ∈ (s.port l).jobs) (hq : j.state = .queued) (hc : chanOf j.chan = some c) : s.Keeps (s.startJob l j c) := by
  have hport : ∀ l', (s.startJob l j c).port l' =
      if l' = l then (s.port l).updJob j.place fun i => { i with state := .running } else s.port l' := fun l' => by
    show (s.updPort l (·.updJob j.place fun i => { i with state := .running })).port l' = _
    rw [State.port_updPort_ite]
  have hmem : ∀ (l' : Link) (i : Job), i ∈ ((s.startJob l j c).port l').jobs →
      i ∈ (s.port l').jobs ∨ l' = l ∧ i.place = j.place ∧ i.state = .running := fun l' i hi => by
    rw [hport] at hi
    split at hi
    · rename_i hl
      obtain ⟨x, hx, rfl⟩ := List.mem_map.mp hi
      split
      · exact .inr ⟨hl, ‹_›, rfl⟩
      · exact .inl (hl ▸ hx)
    · exact .inl hi
  have hquiet (hs : s.ResetQuiet) : (s.startJob l j c).ResetQuiet := fun hcl => by
    have := (hs hcl).2 l
    rw [this] at hj
    cases hj
  refine .of_jobs rfl (fun l' hd => ?_) (fun hs => ?_) fun _ hs => State.EqSound.of_same (s := s) (fun _ => rfl) rfl
    hquiet (fun e he hcl => ?_) (fun l' i hi hq' => ?_) hs
  · rw [hport] at hd
    split at hd
    · rename_i hl; rw [hl]; exact hd
    · exact hd
  · obtain ⟨hp, hqu, hrun, -⟩ := hs
    refine ⟨fun l' => ?_, hquiet hqu, fun l' i hi hr => ?_, fun e he k hk => ?_⟩
    · rw [hport]
      split
      · exact LinkPort.runJob_sound (hp l) hj hq
      · exact hp l'
    · rcases hmem l' i hi with h | ⟨rfl, hk, -⟩
      · have := hrun l' i h hr
        rw [hidle] at this
        cases this
      · rw [hk]; rfl
    · obtain rfl := Option.some.inj he
      obtain rfl := Option.some.inj hk
      refine ⟨{ j with state := .running }, ?_, rfl, rfl⟩
      rw [hport, if_pos rfl]
      exact List.mem_map.mpr ⟨j, hj, if_pos rfl⟩
  · obtain rfl := Option.some.inj he
    obtain ⟨-, -, -, -, -, h6, -⟩ := hs
    obtain ⟨c', hc', hh, hsome⟩ := h6 l j hj hq
    obtain rfl : c = c' := Option.some.inj (hc.symm.trans hc')
    exact ⟨Life.runs_of_held hh, hsome⟩
  · obtain ⟨-, -, -, -, -, h6, -⟩ := hs
    rcases hmem l' i hi with h | ⟨-, -, hr⟩
    · exact h6 l' i h hq'
    · rw [hr] at hq'; cases hq'

theorem State.chooseJob_keeps (s : State) : s.Keeps s.chooseJob := by
  rcases s.chooseJob_cases with h | ⟨l, j, c, hidle, hj, hc, h⟩ <;> rw [h]
  · exact .refl s
  · obtain ⟨hmem, hq⟩ := LinkPort.oldestQueued_mem hj
    exact State.startJob_keeps hidle hmem hq hc

theorem State.inputPush_keeps {s : State} {j : RunJob} (hj : s.engine = some j) {q : EqCtx} (hq :
    (s.chan j.chan).eq = some q)
    (u : Cplx) (us : List Cplx) (refs : List (Nat × Nat)) (outs : List EqOutput) :
    s.Keeps { s.updChan j.chan (fun ch => { ch with eq := some (q.step u j.refs).1 }) with
      engine := some { j with inputs := us, refs := refs, outputs := outs } } := by
  have hne : s.chan j.chan ≠ Channel.free := by intro h; rw [h] at hq; cases hq
  refine .of_parts ⟨⟨rfl, id, rfl, by rw [hj]; rfl, rfl, fun _ => .refl _⟩, rfl, rfl, rfl⟩ (fun c =>
      ?_) fun l c _ hh => ?_
  · show Channel.Change _ _ ((s.setChan j.chan _).chan c)
    rw [State.chan_setChan_ite]
    split
    · rename_i hc
      rw [hc]
      exact .of_role .rfl .rfl hne id id (f := fun q => (q.step u j.refs).1) (by rw [hq]; rfl) (fun q => q.step_ne u _)
        (fun q hq => EqCtx.step_sound hq u _) ⟨rfl, rfl, rfl, rfl, rfl, rfl⟩
    · exact .refl _ _
  · show ((s.setChan j.chan _).chan c).HeldBy l
    rw [State.chan_setChan_ite]
    split
    · rename_i hc; rw [hc] at hh; exact hh
    · exact hh

/-! ### The engine as a part of the state that held commands do not read -/

/-- The state with another job in the engine. -/
def State.withEngine (s : State) (e : Option RunJob) : State := { s with engine := e }

theorem withChan_withEngine {m : CmdMsg} {s : State} {e : Option RunJob} {f g : Chan → State × Reply}
    (h : ∀ c, g c = ((f c).1.withEngine e, (f c).2)) :
    withChan m (s.withEngine e) g = ((withChan m s f).1.withEngine e, (withChan m s f).2) := by
  unfold withChan
  split
  · exact h _
  · rfl

theorem asHolder_withEngine {l : Link} {m : CmdMsg} {s : State} {e : Option RunJob} {f g : Chan → State × Reply}
    (h : ∀ c, g c = ((f c).1.withEngine e, (f c).2)) :
    asHolder l m (s.withEngine e) g = ((asHolder l m s f).1.withEngine e, (asHolder l m s f).2) := by
  refine withChan_withEngine fun c => ?_
  show (match (s.chan c).holderRefusal l with | some code => _ | none => _) = _
  cases (s.chan c).holderRefusal l with
  | some code => rfl
  | none => exact h c

theorem eqOpenNow_withEngine (l : Link) (m : CmdMsg) (s : State) (e : Option RunJob) :
    eqOpenNow l m (s.withEngine e) = ((eqOpenNow l m s).1.withEngine e, (eqOpenNow l m s).2) := by
  refine asHolder_withEngine fun c => ?_
  cases eqRequest m with
  | none => rfl
  | some q =>
    dsimp only
    by_cases h : s.eqUsed - (s.chan c).eqTaps + q.ne > Config.eqBudget
    · exact (if_pos h).trans (by rw [if_pos h]; rfl)
    · exact (if_neg h).trans (by rw [if_neg h]; rfl)

theorem eqCloseNow_withEngine (l : Link) (m : CmdMsg) (s : State) (e : Option RunJob) :
    eqCloseNow l m (s.withEngine e) = ((eqCloseNow l m s).1.withEngine e, (eqCloseNow l m s).2) := by
  refine asHolder_withEngine fun c => ?_
  show (if (s.chan c).eq.isNone then _ else _) = _
  split <;> rfl

theorem eqSetNow_withEngine (l : Link) (m : CmdMsg) (s : State) (e : Option RunJob) :
    eqSetNow l m (s.withEngine e) = ((eqSetNow l m s).1.withEngine e, (eqSetNow l m s).2) := by
  refine asHolder_withEngine fun c => ?_
  show (match (s.chan c).eq, eqModeOf (fieldAt (m.word 1) 0 3) with | some q, some mode => _ | _, _ => _) = _
  cases (s.chan c).eq <;> cases eqModeOf (fieldAt (m.word 1) 0 3) <;> rfl

theorem clearTapsNow_withEngine (l : Link) (m : CmdMsg) (s : State) (e : Option RunJob) :
    clearTapsNow l m (s.withEngine e) = ((clearTapsNow l m s).1.withEngine e, (clearTapsNow l m s).2) := by
  refine asHolder_withEngine fun c => ?_
  show (if _ then _ else if hasBit (filterSet (m.word 1)) 2 && (s.chan c).eq.isNone then _ else _) = _
  dsimp only
  split
  · rfl
  · split <;> rfl

theorem pokeNow_withEngine (l : Link) (m : CmdMsg) (s : State) (e : Option RunJob) :
    pokeNow l m (s.withEngine e) = ((pokeNow l m s).1.withEngine e, (pokeNow l m s).2) := by
  refine asHolder_withEngine fun c => ?_
  show (match (s.chan c).pokeRefusal (fieldAt (m.word 1) 0 16) with | some code => _ | none => _) = _
  cases hr : (s.chan c).pokeRefusal (fieldAt (m.word 1) 0 16) with
  | some code => simp only [hr]; rfl
  | none => simp only [hr]; rfl

/-- What a command held behind the completing job does when it is taken (R107). -/
def heldNow (h : Held) (s : State) : State × Reply :=
  match h.msg.kind with
  | .eqOpen => eqOpenNow h.link h.msg s
  | .eqClose => eqCloseNow h.link h.msg s
  | .eqSet => eqSetNow h.link h.msg s
  | .clearTaps => clearTapsNow h.link h.msg s
  | .poke => pokeNow h.link h.msg s
  | _ => (s, .done .badValue [])

theorem State.takeHeld_eq (s : State) (h : Held) :
    s.takeHeld h = (heldNow h s).1.settle h.link h.place h.msg (heldNow h s).2 := rfl

theorem heldNow_withEngine (h : Held) (s : State) (e : Option RunJob) :
    heldNow h (s.withEngine e) = ((heldNow h s).1.withEngine e, (heldNow h s).2) := by
  unfold heldNow
  cases h.msg.kind with
  | eqOpen => exact eqOpenNow_withEngine _ _ _ _
  | eqClose => exact eqCloseNow_withEngine _ _ _ _
  | eqSet => exact eqSetNow_withEngine _ _ _ _
  | clearTaps => exact clearTapsNow_withEngine _ _ _ _
  | poke => exact pokeNow_withEngine _ _ _ _
  | _ => rfl

theorem State.takeHeld_withEngine (s : State) (h : Held) (e : Option RunJob) :
    (s.withEngine e).takeHeld h = (s.takeHeld h).withEngine e := by
  rw [State.takeHeld_eq, State.takeHeld_eq, heldNow_withEngine]
  cases (heldNow h s).2 <;> rfl

/-- The held commands are taken as if the engine were idle already. -/
theorem State.foldl_takeHeld_withEngine (hs : List Held) (s : State) (e : Option RunJob) :
    hs.foldl State.takeHeld (s.withEngine e) = (hs.foldl State.takeHeld s).withEngine e := by
  induction hs generalizing s with
  | nil => rfl
  | cons h hs ih => rw [List.foldl_cons, List.foldl_cons, State.takeHeld_withEngine, ih]

/-! ### Completion of a job (R99, R107) -/

theorem State.jobRuns_of_idle {s : State} (h : s.engine = none) (c : Chan) : s.jobRuns c = false := by
  rw [State.jobRuns, h]

theorem State.takeHeld_engine (s : State) (h : Held) : (s.takeHeld h).engine = s.engine := by
  have hsame : s.takeHeld h = (s.takeHeld h).withEngine s.engine := s.takeHeld_withEngine h s.engine
  rw [hsame]
  rfl

theorem State.takeHeld_keeps {s : State} (hidle : s.engine = none) (h : Held) : s.Keeps (s.takeHeld h) := by
  rw [State.takeHeld_eq]
  refine State.Keeps.trans ?_ (State.settle_keeps _ _ _ _ _)
  unfold heldNow
  split
  · exact eqOpenNow_keeps _ _ s
  · exact eqCloseNow_keeps _ fun c _ => State.jobRuns_of_idle hidle c
  · exact eqSetNow_keeps _ _ s
  · exact clearTapsNow_keeps _ _ s
  · exact pokeNow_keeps _ _ s
  · exact .refl s

theorem State.takeHelds_keeps (hs : List Held) {s : State} (hidle : s.engine = none) :
    s.Keeps (hs.foldl State.takeHeld s) := by
  induction hs generalizing s with
  | nil => exact .refl s
  | cons h hs ih => exact (State.takeHeld_keeps hidle h).trans (ih ((s.takeHeld_engine h).trans hidle))

/-- A RUNNING job of a port within its limits becomes READY in its slot. -/
theorem LinkPort.readyJob_sound {p : LinkPort} (h : p.Sound) {i : Job} (hi : i ∈ p.jobs) (hr : i.state = .running)
    (r : EqResult) :
    ({ p.updJob i.place (fun j => { j with state := .ready r }) with ready := p.ready ++ [i.place] } :
        LinkPort).Sound := by
  have hat : ∀ j ∈ p.jobs, j.place = i.place → j.isReady = false ∧ j.isSending = false := fun j hj hji => by
    rw [h.job_unique hj hi hji, Job.isReady, Job.isSending, hr]
    exact ⟨rfl, rfl⟩
  refine h.of_jobs ⟨rfl, rfl, rfl, rfl, rfl, rfl⟩ rfl le_rfl
    (fun j => if j.place = i.place then { j with state := .ready r } else j) (fun j => by split <;> rfl) rfl ?_
    (fun k => ?_) (fun k hk => ?_) fun hd => ?_
  · refine List.nodup_append.mpr ⟨h.ready_nodup, by simp, fun a ha b hb => ?_⟩
    rw [List.mem_singleton.mp hb]
    rintro rfl
    obtain ⟨j, hj, hji, hjr⟩ := (h.mem_ready _).mp ha
    rw [(hat j hj hji).1] at hjr
    cases hjr
  · simp only [List.mem_append, List.mem_singleton, h.mem_ready k]
    constructor
    · rintro (⟨j, hj, hjk, hjr⟩ | rfl)
      · refine ⟨j, hj, hjk, ?_⟩
        split
        · rfl
        · exact hjr
      · exact ⟨i, hi, rfl, by rw [if_pos rfl]; rfl⟩
    · rintro ⟨j, hj, hjk, hjr⟩
      by_cases hji : j.place = i.place
      · exact .inr (hjk.symm.trans hji)
      · rw [if_neg hji] at hjr
        exact .inl ⟨j, hj, hjk, hjr⟩
  · obtain ⟨j, hj, hjk, hs⟩ := h.sending hk
    refine ⟨j, hj, hjk, ?_⟩
    rw [if_neg fun hji => ?_]
    · exact hs
    · rw [(hat j hj hji).2] at hs; cases hs
  · obtain ⟨-, -, -, -, -, he, -⟩ := h.emptied hd
    rw [he] at hi
    cases hi

/-- The port of a completing job with the job's result in its slot. -/
def LinkPort.putResult (p : LinkPort) (k : Fin 4) (r : EqResult) : LinkPort :=
  { p.updJob k (fun i => { i with state := .ready r }) with ready := p.ready ++ [k] }

theorem State.port_readyJob (s : State) (j : RunJob) (l : Link) : (s.readyJob j).port l =
    match j.place with
    | some k => if l = j.link then (s.port l).putResult k (s.jobResult j) else s.port l
    | none => s.port l := by
  unfold State.readyJob
  cases j.place with
  | none => rfl
  | some k =>
    dsimp only
    rw [State.port_updPort_ite]
    split
    · rename_i h; rw [h]; rfl
    · rfl

theorem State.readyJob_same (s : State) (j : RunJob) : s.SameButPorts (s.readyJob j) := by
  unfold State.readyJob
  cases j.place <;> rfl

/-- The result of a job enters its slot, and the engine is IDLE. -/
theorem State.readyJob_keeps {s : State} {j : RunJob} (hj : s.engine = some j) :
    s.Keeps ((s.readyJob j).withEngine none) := by
  have hport := s.port_readyJob j
  have hsame := s.readyJob_same j
  have hmem : ∀ (l : Link) (i : Job), i ∈ ((s.readyJob j).port l).jobs → i.state = .queued ∨ i.state = .running →
      i ∈ (s.port l).jobs ∧ (l = j.link → some i.place ≠ j.place) := fun l i hi hs => by
    rw [hport] at hi
    split at hi
    · rename_i k hk
      split at hi
      · obtain ⟨x, hx, rfl⟩ := List.mem_map.mp hi
        by_cases hxk : x.place = k
        · rw [if_pos hxk] at hs; rcases hs with h | h <;> cases h
        · rw [if_neg hxk]; exact ⟨hx, fun _ h => hxk (Option.some.inj (h.trans hk))⟩
      · rename_i hl; exact ⟨hi, fun h => absurd h hl⟩
    · rename_i hk; exact ⟨hi, fun _ h => by rw [hk] at h; cases h⟩
  have hquiet (hs : s.ResetQuiet) : ((s.readyJob j).withEngine none).ResetQuiet := fun hcl => by
    have hcl : (s.readyJob j).clear ≠ .none := hcl
    rw [hsame.clear] at hcl
    rw [(hs hcl).1] at hj
    cases hj
  refine .of_jobs ?_ (fun l hd => ?_) (fun hs => ?_) fun _ hs => State.EqSound.of_same (s := s) hsame.chan hsame.eqUsed
    hquiet (fun e he => by cases he) (fun l i hi hq => ?_) hs
  · show { s with engine := none, eqLast := (s.readyJob j).eqLast, held := (s.readyJob j).held
                  links := (s.readyJob j).links } = _
    rw [hsame.eqLast, hsame.held]
    exact congrArg (State.withEngine · none) hsame
  · have hd : ((s.readyJob j).port l).state = .down := hd
    rw [hport] at hd
    split at hd
    · split at hd <;> exact hd
    · exact hd
  · obtain ⟨hp, hqu, hrun, heng⟩ := hs
    refine ⟨fun l => ?_, hquiet hqu, fun l i hi hr => ?_, nofun⟩
    · show ((s.readyJob j).port l).Sound
      rw [hport]
      split
      · rename_i k hk
        split
        · rename_i hl
          obtain ⟨i, hi, hik, hir⟩ := heng j hj k hk
          rw [hl, ← hik]
          exact LinkPort.readyJob_sound (hp _) hi hir _
        · exact hp l
      · exact hp l
    · obtain ⟨hi', hne⟩ := hmem l i hi (.inr hr)
      have := hrun l i hi' hr
      rw [hj] at this
      simp only [Option.map_some, Option.some.injEq, Prod.mk.injEq] at this
      exact absurd this.2.symm (hne this.1.symm)
  · obtain ⟨-, -, -, -, -, h6, -⟩ := hs
    exact h6 l i (hmem l i hi (.inl hq)).1 hq

/-- A change of the counters of a channel that runs whenever the equalizer service is sound. -/
theorem State.Keeps.of_count {s : State} {c : Chan} (f : Counters → Counters)
    (hr : s.EqSound → (s.chan c).state.runs = true) : s.Keeps (s.updChan c fun ch => { ch with cnt := f ch.cnt }) := by
  by_cases hruns : (s.chan c).state.runs = true
  · exact State.free_keeps hruns _ rfl
  · have hc : ∀ c', (s.updChan c fun ch => { ch with cnt := f ch.cnt }).chan c' =
        if c' = c then { s.chan c with cnt := f (s.chan c).cnt } else s.chan c' := fun c' =>
            State.chan_updChan_ite _ _ _ _
    refine .of_record hc rfl id rfl rfl rfl (fun hs => ?_) id id fun hs => absurd (hr hs) hruns
    have hs' := hs
    obtain ⟨h1, h2, h3, -, -, -, -, h8⟩ := hs'
    exact hs.of_update hc (.refl _) rfl h8 (State.slots_of_same hs hc rfl rfl) (h1 c) (h2 c) (h3 c)

/-- The counter of completed jobs, of a channel whose job the engine runs. -/
theorem State.countJob_keeps {s : State} {j : RunJob} (hj : s.engine = some j) : s.Keeps (s.countJob j) := by
  unfold State.countJob
  split
  · exact .refl s
  · rename_i hcl
    refine .of_count (fun cnt => { cnt with eqJobsDone := wrap32 cnt.eqJobsDone }) fun hs => ?_
    obtain ⟨-, -, -, -, -, -, h7, -⟩ := hs
    exact (h7 j hj (by simpa using hcl)).1

/-- Counting a job does not change its result. -/
theorem State.jobResult_countJob (s : State) (j : RunJob) : (s.countJob j).jobResult j = s.jobResult j := by
  unfold State.countJob
  split
  · rfl
  · unfold State.jobResult
    rw [State.chan_updChan]

theorem State.readyJob_countJob (s : State) (j : RunJob) : (s.readyJob j).countJob j = (s.countJob j).readyJob j := by
  unfold State.readyJob
  rw [State.jobResult_countJob]
  unfold State.countJob
  cases j.place <;> cases j.closed <;> rfl

/-- The completion of a job: it is counted, its result is ready and the engine idle, and the held commands are taken. -/
theorem State.finishJob_eq (s : State) (j : RunJob) : s.finishJob j =
    s.held.foldl State.takeHeld { ((s.countJob j).readyJob j).withEngine none with held := [] } := by
  have hheld : ((s.countJob j).readyJob j).held = s.held := by
    rw [(State.readyJob_same _ j).held]
    unfold State.countJob
    split <;> rfl
  unfold State.finishJob
  dsimp only
  rw [State.readyJob_countJob, hheld]
  exact (State.foldl_takeHeld_withEngine s.held { (s.countJob j).readyJob j with held := [] } none).symm

theorem State.completeJob_keeps {s : State} {j : RunJob} (hj : s.engine = some j) : s.Keeps (s.completeJob j) := by
  have hengine : (s.countJob j).engine = some j := by
    unfold State.countJob
    split <;> exact hj
  refine State.Keeps.trans ?_ (State.chooseJob_keeps _)
  rw [State.finishJob_eq]
  exact ((State.countJob_keeps hj).trans (State.readyJob_keeps hengine)).trans
    ((State.Keeps.of_eq rfl).trans (State.takeHelds_keeps s.held rfl))

end Sys2Proof.Machine

/-! SUPPORT. The transmitter, a link going DOWN, the resets, and then every command and event: each step keeps every
invariant, which settles the five invariants of this file's obligations. -/

namespace Sys2Proof.Machine

/-! ### The transmitter starts a message (R87, R88) -/

/-- A port of a link that is not DOWN starts a message that frees no job slot, or none. -/
theorem LinkPort.Traffic.of_start {p q : LinkPort} (hup : p.state ≠ .down) (h : p.SameLine q) (hjobs : q.jobs = p.jobs)
    (hready : q.ready = p.ready) (hintake : q.intake = p.intake) (hnotices : q.notices.length ≤ p.notices.length)
    (htx : q.tx.jobSlot = none) : p.Traffic q :=
  .of_line h hjobs hready (by rw [hintake]; exact id) (fun hn => hnotices.trans hn)
    (fun k hk => by rw [htx] at hk; cases hk) fun hd => absurd hd hup

theorem Channel.hasRx_ne_free {ch : Channel} {l : Link} (h : ch.hasRxFor l = true) : ch ≠ Channel.free := by
  rintro rfl; cases h

theorem startRx_queueSound {ch : Channel} (h : ch.QueueSound) (l : Link) :
    ({ ch with rxq := startRx l ch.rxq } : Channel).QueueSound := by
  obtain ⟨h1, h2⟩ := h
  refine ⟨(length_startRx_le l ch.rxq).trans h1, fun e he => ?_⟩
  rcases startRx_sublist l ch.rxq he with he | ⟨x, hx, rfl, hd⟩
  · exact h2 e he
  · obtain ⟨-, hn, hl⟩ := h2 x hx
    exact ⟨hd, hn.filter _, fun i hi => hl i (List.mem_filter.mp hi).1⟩

theorem State.startRxOrWatch_keeps {s : State} {l : Link} (hup : (s.port l).state ≠ .down) :
    s.Keeps (s.startRxOrWatch l) := by
  unfold State.startRxOrWatch
  split
  · rename_i c hc
    have hrx : (s.chan c).hasRxFor l = true := by
      have := List.find?_some hc
      exact this
    split
    · rename_i e _
      refine State.Keeps.trans (.updChan (.of_roles .rfl .rfl id (Channel.hasRx_ne_free hrx) rfl fun hr => ?_) fun _ =>
          id)
        (.updPort (.of_start hup ⟨rfl, rfl, rfl, rfl, rfl, rfl⟩ rfl rfl rfl le_rfl rfl))
      exact Channel.RolesSound.with_queue hr ⟨rfl, rfl, rfl, rfl, rfl, rfl, rfl, rfl, rfl, rfl, rfl, rfl⟩
        (startRx_queueSound hr.queue l)
    · exact .refl s
  · split
    · exact .updPort (.of_start hup ⟨rfl, rfl, rfl, rfl, rfl, rfl⟩ rfl rfl rfl le_rfl rfl)
    · exact .refl s

theorem State.transmit_keeps {s : State} {l : Link} (hup : (s.port l).state ≠ .down) : s.Keeps (s.transmit l) := by
  unfold State.transmit
  split
  · exact .updPort (.of_start hup ⟨rfl, rfl, rfl, rfl, rfl, rfl⟩ rfl rfl rfl le_rfl rfl)
  · split
    · rename_i hn
      refine .updPort (.of_start hup ⟨rfl, rfl, rfl, rfl, rfl, rfl⟩ rfl rfl rfl ?_ rfl)
      rw [hn]
      exact Nat.le_succ _
    · split
      · rename_i hr
        split
        · rename_i hj
          exact .updPort (LinkPort.sendJob_traffic hr hj)
        · rename_i hj
          exact .updPort (LinkPort.skipReady_traffic hr hj)
      · exact State.startRxOrWatch_keeps hup

/-! ### A link goes DOWN, channel by channel (R135) -/

/-- A record that has lost link `l` from its rx queue and its retune (R74, R84). -/
def Channel.unqueued (ch : Channel) (l : Link) : Channel :=
  { ch with rxq := editQueue (· != l) ch.rxq, retune := ch.retune.map (Retune.forget l) }

/-- A record whose offer to link `l`, if there is one, has failed (R122). -/
def Channel.unoffered (ch : Channel) (l : Link) : Channel :=
  if (ch.offer.map Offer.target) = some l then ch.targetDown l else ch

/-- A record without link `l` as its holder (R11, R114). -/
def Channel.unheld (ch : Channel) (l : Link) : Channel :=
  if ch.holder = some l then
    if ch.state = .active ∨ ch.state = .handoverPending then { ch.orphanHold with holder := none, state := .orphaned }
    else { ch with holder := none }
  else ch

/-- Everything that a link's going DOWN does to a record (Table 35). -/
def Channel.lostLink (ch : Channel) (l : Link) : Channel := (((ch.unqueued l).unoffered l).clearShadow l).unheld l

theorem State.setChan_notify (s : State) (l : Link) (n : Notice) (c : Chan) (x : Channel) :
    (s.notify l n).setChan c x = (s.setChan c x).notify l n := by
  unfold State.notify State.isDown
  rw [State.port_setChan]
  split <;> rfl

theorem State.setChan_notifyEach (ls : List Link) (n : Notice) (c : Chan) (x : Channel) (s : State) :
    (s.notifyEach ls n).setChan c x = (s.setChan c x).notifyEach ls n := by
  induction ls generalizing s with
  | nil => rfl
  | cons l ls ih =>
    show ((s.notify l n).notifyEach ls n).setChan c x = ((s.setChan c x).notify l n).notifyEach ls n
    rw [ih, State.setChan_notify]

@[simp] theorem State.chan_notifyEach (ls : List Link) (n : Notice) (s : State) (c : Chan) :
    (s.notifyEach ls n).chan c = s.chan c := (State.notifyEach_sameButPorts ls n s).chan c

theorem State.failOfferTo_eq (s : State) (l : Link) (c : Chan) : s.failOfferTo l c =
    (s.setChan c ((s.chan c).unoffered l)).notifyEach
      (if ((s.chan c).offer.map Offer.target) = some l then (s.chan c).holder.toList else [])
      { chan := fieldOfChan c, body := .handoverFailed l .targetDown } := by
  unfold State.failOfferTo Channel.unoffered
  split
  · rfl
  · exact s.setChan_chan c |>.symm

theorem State.loseHolder_eq (s : State) (l : Link) (c : Chan) : s.loseHolder l c =
    (s.setChan c ((s.chan c).unheld l)).notifyEach
      (if (s.chan c).holder = some l ∧ ((s.chan c).state = .active ∨ (s.chan c).state = .handoverPending) then
          allLinks else [])
      (((s.chan c).unheld l).orphanedNotice c (some l)) := by
  unfold State.loseHolder Channel.unheld
  by_cases hh : (s.chan c).holder = some l
  · by_cases hs : (s.chan c).state = .active ∨ (s.chan c).state = .handoverPending
    · simp only [hh, hs, if_true, and_self]
    · simp only [hh, hs, if_true, if_false, and_false]; rfl
  · simp only [hh, if_false, false_and, State.setChan_chan]; rfl

/-- The lifecycle state and the holder that the loss of a link's offer and shadows leaves. -/
theorem Channel.cleared_state (ch : Channel) (l : Link) :
    (((ch.unqueued l).unoffered l).clearShadow l).holder = ch.holder ∧
    (((((ch.unqueued l).unoffered l).clearShadow l).state = .active ∨
      (((ch.unqueued l).unoffered l).clearShadow l).state = .handoverPending) ↔
      (ch.state = .active ∨ ch.state = .handoverPending)) := by
  unfold Channel.unoffered
  split
  · unfold Channel.targetDown
    rcases (({ ch.unqueued l with
      saved := if (ch.unqueued l).saved = some l then none else (ch.unqueued l).saved } :
          Channel).endOffer).backToActive_cases
      with ⟨hs, hb⟩ | ⟨hs, hb⟩ <;> rw [hb]
    · have hs : ch.state = .handoverPending := hs
      exact ⟨rfl, by simp [Channel.clearShadow, hs]⟩
    · exact ⟨rfl, .rfl⟩
  · exact ⟨rfl, .rfl⟩

/-- What a link's going DOWN does to one channel: its record changes, its holder is told of a failed offer, and every
link that it is orphaned. -/
theorem State.linkLostBy_eq (l : Link) (s : State) (c : Chan) : State.linkLostBy l s c =
    ((s.setChan c ((s.chan c).lostLink l)).notifyEach
      (if ((s.chan c).offer.map Offer.target) = some l then (s.chan c).holder.toList else [])
      { chan := fieldOfChan c, body := .handoverFailed l .targetDown }).notifyEach
      (if (s.chan c).holder = some l ∧ ((s.chan c).state = .active ∨ (s.chan c).state = .handoverPending) then
          allLinks else [])
      (((s.chan c).lostLink l).orphanedNotice c (some l)) := by
  obtain ⟨hholder, hstate⟩ := (s.chan c).cleared_state l
  unfold State.linkLostBy
  dsimp only
  have hq : (s.updChan c fun ch =>
      { ch with rxq := editQueue (· != l) ch.rxq, retune := ch.retune.map (Retune.forget l) }) =
      s.setChan c ((s.chan c).unqueued l) := rfl
  rw [hq, State.failOfferTo_eq, State.loseHolder_eq]
  simp only [State.updChan, State.chan_notifyEach, State.setChan_notifyEach, State.chan_setChan, State.setChan_setChan]
  simp only [hholder, hstate]
  rfl

/-- The notices that a link's going DOWN brings to link `i` for one channel (R114, R122). -/
def Channel.lostNotices (ch : Channel) (c : Chan) (l i : Link) : List Notice :=
  (if (ch.offer.map Offer.target) = some l ∧ ch.holder = some i then
    [{ chan := fieldOfChan c, body := .handoverFailed l .targetDown }] else []) ++
  (if ch.holder = some l ∧ (ch.state = .active ∨ ch.state = .handoverPending) then
    [(ch.lostLink l).orphanedNotice c (some l)] else [])

theorem foldl_told_ite (p : LinkPort) (P : Prop) [Decidable P] (n : Notice) :
    (if P then [n] else []).foldl LinkPort.told p = if P then p.told n else p := by split <;> rfl

theorem State.port_linkLostBy (l : Link) (s : State) (c : Chan) (i : Link) :
    (State.linkLostBy l s c).port i = ((s.chan c).lostNotices c l i).foldl LinkPort.told (s.port i) := by
  have hnodup : ((s.chan c).holder.toList).Nodup := by cases (s.chan c).holder <;> simp
  have h1 : (if ((s.chan c).offer.map Offer.target) = some l then (s.chan c).holder.toList else []).Nodup := by
    split
    · exact hnodup
    · exact List.nodup_nil
  have h2 : (if (s.chan c).holder = some l ∧ ((s.chan c).state = .active ∨ (s.chan c).state = .handoverPending) then
      allLinks else []).Nodup := by
    split
    · exact allLinks_nodup
    · exact List.nodup_nil
  have m1 : (i ∈ if ((s.chan c).offer.map Offer.target) = some l then (s.chan c).holder.toList else []) ↔
      ((s.chan c).offer.map Offer.target) = some l ∧ (s.chan c).holder = some i := by
    split <;> simp [*]
  have m2 : (i ∈ if (s.chan c).holder = some l ∧ ((s.chan c).state = .active ∨ (s.chan c).state = .handoverPending) then
      allLinks else []) ↔
      (s.chan c).holder = some l ∧ ((s.chan c).state = .active ∨ (s.chan c).state = .handoverPending) := by
    split
    · simp only [mem_allLinks, true_iff]; assumption
    · simp only [List.not_mem_nil, false_iff]; assumption
  rw [State.linkLostBy_eq, State.port_notifyEach _ h2, State.port_notifyEach _ h1, State.port_setChan,
    Channel.lostNotices, List.foldl_append, foldl_told_ite, foldl_told_ite]
  simp only [m1, m2]

/-- The state but for its records and its ports. -/
def State.SameRest (s t : State) : Prop := { s with channels := t.channels, links := t.links } = t

theorem State.SameRest.trans {s t u : State} (h : s.SameRest t) (k : t.SameRest u) : s.SameRest u := by
  unfold State.SameRest at *
  rw [← k, ← h]

theorem State.SameButPorts.rest {s t : State} (h : s.SameButPorts t) : s.SameRest t := by
  unfold State.SameButPorts at h
  unfold State.SameRest
  rw [← h]

theorem State.linkLostBy_rest (l : Link) (s : State) (c : Chan) : s.SameRest (State.linkLostBy l s c) := by
  rw [State.linkLostBy_eq]
  exact (State.SameRest.trans (t := s.setChan c ((s.chan c).lostLink l)) rfl
    (State.notifyEach_sameButPorts _ _ _).rest).trans (State.notifyEach_sameButPorts _ _ _).rest

theorem State.chan_linkLostBy (l : Link) (s : State) (c c' : Chan) :
    (State.linkLostBy l s c).chan c' = if c' = c then (s.chan c).lostLink l else s.chan c' := by
  rw [State.linkLostBy_eq, State.chan_notifyEach, State.chan_notifyEach, State.chan_setChan_ite]

/-- What a link's going DOWN does to the channels of a list, one after the other. -/
theorem State.foldl_linkLostBy (l : Link) (cs : List Chan) (hn : cs.Nodup) (s : State) :
    s.SameRest (cs.foldl (State.linkLostBy l) s) ∧
    (∀ c, (cs.foldl (State.linkLostBy l) s).chan c = if c ∈ cs then (s.chan c).lostLink l else s.chan c) ∧
    ∀ i, (cs.foldl (State.linkLostBy l) s).port i =
      (cs.flatMap fun c => (s.chan c).lostNotices c l i).foldl LinkPort.told (s.port i) := by
  induction cs generalizing s with
  | nil => exact ⟨rfl, fun c => by simp, fun i => rfl⟩
  | cons c cs ih =>
    obtain ⟨hc, hcs⟩ := List.nodup_cons.mp hn
    obtain ⟨h1, h2, h3⟩ := ih hcs (State.linkLostBy l s c)
    refine ⟨(State.linkLostBy_rest l s c).trans h1, fun c' => ?_, fun i => ?_⟩
    · rw [List.foldl_cons, h2, State.chan_linkLostBy]
      by_cases hcc : c' = c
      · rw [if_pos hcc, hcc, if_neg hc, if_pos (by simp)]
      · simp [hcc]
    · rw [List.foldl_cons, h3, State.port_linkLostBy, List.flatMap_cons, List.foldl_append]
      congr 1
      refine List.flatMap_congr fun c' hc' => ?_
      rw [State.chan_linkLostBy, if_neg]
      rintro rfl
      exact hc hc'

/-! ### A record that loses a link stays sound -/

theorem Channel.unoffered_cases (ch : Channel) (l : Link) :
    (∃ o, ch.offer = some o ∧ o.target = l ∧ ch.unoffered l = ch.targetDown l) ∨
      ((∀ o, ch.offer = some o → o.target ≠ l) ∧ ch.unoffered l = ch) := by
  unfold Channel.unoffered
  split
  · rename_i h
    obtain ⟨o, ho, ht⟩ := Option.map_eq_some_iff.mp h
    exact .inl ⟨o, ho, ht, rfl⟩
  · rename_i h
    exact .inr ⟨fun o ho ht => h (by rw [ho, ← ht]; rfl), rfl⟩

/-- A record within sound roles that names link `l` neither in its rx queue nor as a retune's requester. -/
def Channel.Unqueued (ch : Channel) (down : Link → Bool) (l : Link) : Prop :=
  ch.RolesSound down ∧ (∀ e ∈ ch.rxq, l ∉ e.due) ∧ ∀ r, ch.retune = some r → r.requester ≠ some l

theorem Retune.forget_ne (l : Link) (r : Retune) : (r.forget l).requester ≠ some l := by
  unfold Retune.forget
  dsimp only
  split
  · nofun
  · assumption

theorem Channel.unqueued_unqueued {ch : Channel} {down : Link → Bool} (h : ch.RolesSound down) (l : Link) :
    (ch.unqueued l).Unqueued down l := by
  obtain ⟨h1, h2, h3, h4, h5, h6, h7, h8, h9, h10, h11⟩ := h
  refine ⟨⟨h1, h2, h3, h4, h5, h6, h7, h8, fun r hr i hi => ?_, ?_, fun e he => ?_⟩, fun e he hl => ?_, fun r hr => ?_⟩
  · obtain ⟨r', hr', rfl⟩ := Option.map_eq_some_iff.mp hr
    unfold Retune.forget at hi
    dsimp only at hi
    split at hi
    · cases hi
    · exact h9 r' hr' i hi
  · show (editQueue _ ch.rxq).length ≤ _
    unfold editQueue
    exact ((List.length_filter_le _ _).trans (List.length_map _).le).trans h10
  · obtain ⟨hd, x, hx, rfl⟩ := mem_editQueue.mp he
    obtain ⟨-, hn, hl⟩ := h11 x hx
    exact ⟨hd, hn.filter _, fun i hi => hl i (List.mem_filter.mp hi).1⟩
  · obtain ⟨-, x, -, rfl⟩ := mem_editQueue.mp he
    simpa using (List.mem_filter.mp hl).2
  · obtain ⟨r', -, rfl⟩ := Option.map_eq_some_iff.mp hr
    exact r'.forget_ne l

theorem Channel.unoffered_unqueued {ch : Channel} {down : Link → Bool} {l : Link} (h : ch.Unqueued down l) :
    (ch.unoffered l).Unqueued down l ∧ ∀ o, (ch.unoffered l).offer = some o → o.target ≠ l := by
  rcases ch.unoffered_cases l with ⟨o, ho, ht, hu⟩ | ⟨hne, hu⟩ <;> rw [hu]
  · obtain ⟨hr, hq, hret⟩ := h
    have hclause : ∀ e ∈ ch.rxq, ∀ i ∈ e.due, ch.holder = some i := fun e he i hi => by
      obtain ⟨-, -, -, -, -, -, h7, -, -, -, h11⟩ := hr
      refine ((h11 e he).2.2 i hi).resolve_right fun hc => hq e he ?_
      rw [(h7 o ho).2, Option.some.injEq, ht] at hc
      rwa [hc]
    have hsaved : ({ ch with saved := if ch.saved = some l then none else ch.saved } : Channel).RolesSound down := by
      obtain ⟨h1, h2, h3, h4, h5, h6, h7, h8, h9, h10, h11⟩ := hr
      refine ⟨h1, h2, fun i hi => ⟨(h3 i hi).1, (h3 i hi).2.1, ?_⟩, h4, fun i hi => ?_, h6, h7, fun hn => ?_, h9, h10,
          h11⟩
      · dsimp only; split
        · nofun
        · exact (h3 i hi).2.2
      · dsimp only at hi; split at hi
        · cases hi
        · exact h5 i hi
      · have hn : ch.offer = none := hn
        rw [ho] at hn; cases hn
    have hend := Channel.endOffer_roles hsaved
    have hqueue : (ch.targetDown l).rxq = ch.rxq ∧ (ch.targetDown l).holder = ch.holder ∧
        (ch.targetDown l).retune = ch.retune ∧ (ch.targetDown l).offer = none := by
      unfold Channel.targetDown
      rcases (({ ch with saved := if ch.saved = some l then none else ch.saved } : Channel).endOffer).backToActive_cases
        with ⟨-, hb⟩ | ⟨-, hb⟩ <;> rw [hb] <;> exact ⟨rfl, rfl, rfl, rfl⟩
    obtain ⟨hrxq, hholder, hretune, hoffer⟩ := hqueue
    obtain ⟨b1, b2, b3, b4, b5, b6, b7, b8, b9, -, -⟩ := hend
    obtain ⟨-, -, -, -, -, -, -, -, -, h10, h11⟩ := hr
    refine ⟨⟨⟨b1, b2, b3, b4, b5, b6, b7, b8, b9, by rw [hrxq]; exact h10, fun e he => ?_⟩, ?_, ?_⟩, fun o ho => ?_⟩
    · rw [hrxq] at he
      rw [hholder]
      exact ⟨(h11 e he).1, (h11 e he).2.1, fun i hi => .inl (hclause e he i hi)⟩
    · rw [hrxq]; exact hq
    · rw [hretune]; exact hret
    · rw [hoffer] at ho; cases ho
  · exact ⟨h, hne⟩

/-- A record that names link `l` in none of its roles but perhaps as its holder. -/
def Channel.Unshadowed (ch : Channel) (down : Link → Bool) (l : Link) : Prop :=
  ch.Unqueued down l ∧ ch.copy ≠ some l ∧ ch.saved ≠ some l

theorem Channel.clearShadow_unshadowed {ch : Channel} {down : Link → Bool} {l : Link} (h : ch.Unqueued down l)
    (ho : ∀ o, ch.offer = some o → o.target ≠ l) : (ch.clearShadow l).Unshadowed down l := by
  obtain ⟨⟨h1, h2, h3, h4, h5, h6, h7, h8, h9, h10, h11⟩, hq, hret⟩ := h
  have hcopy : ∀ i, (ch.clearShadow l).copy = some i → ch.copy = some i := fun i hi => by
    unfold Channel.clearShadow at hi
    dsimp only at hi
    split at hi
    · cases hi
    · exact hi
  have hsaved : ∀ i, (ch.clearShadow l).saved = some i → ch.saved = some i ∧ i ≠ l := fun i hi => by
    unfold Channel.clearShadow at hi
    dsimp only at hi
    split at hi
    · cases hi
    · rename_i hl; exact ⟨hi, fun h => hl (h ▸ hi)⟩
  have hkeep : ∀ i, i ≠ l → ch.copy = some i → (ch.clearShadow l).copy = some i := fun i hil hi => by
    unfold Channel.clearShadow
    dsimp only
    rw [if_neg, hi]
    rw [hi]
    exact fun h => hil (Option.some.inj h.2)
  have hcl : (ch.clearShadow l).copy ≠ some l := by
    intro hc
    have hcopy' := hcopy l hc
    cases hof : ch.offer with
    | none => 
      unfold Channel.clearShadow at hc
      dsimp only at hc
      rw [if_pos ⟨by rw [hof]; rfl, hcopy'⟩] at hc
      cases hc
    | some o =>
      have := (h7 o hof).2
      rw [hcopy', Option.some.injEq] at this
      exact ho o hof this.symm
  refine ⟨⟨⟨h1, h2, fun i hi => ⟨(h3 i hi).1, fun hc => (h3 i hi).2.1 (hcopy i hc), fun hc =>
      (h3 i hi).2.2 (hsaved i hc).1⟩,
    fun i hi => h4 i (hcopy i hi), fun i hi => h5 i (hsaved i hi).1, h6, fun o hof => ⟨(h7 o hof).1, ?_⟩, fun hn => ?_,
        h9, h10,
    fun e he => ⟨(h11 e he).1, (h11 e he).2.1, fun i hi => ?_⟩⟩, hq, hret⟩, hcl, fun hc => (hsaved l hc).2 rfl⟩
  · exact hkeep _ (ho o hof) (h7 o hof).2
  · cases hs : (ch.clearShadow l).saved with
    | none => rfl
    | some i => have := (hsaved i hs).1; rw [h8 hn] at this; cases this
  · exact ((h11 e he).2.2 i hi).imp id (hkeep i fun hil => hq e he (hil ▸ hi))

theorem Channel.unheld_roles {ch : Channel} {down : Link → Bool} {l : Link} (h : ch.Unshadowed down l) :
    (ch.unheld l).RolesSound fun i => down i || i == l := by
  obtain ⟨⟨⟨h1, h2, h3, h4, h5, h6, h7, h8, h9, h10, h11⟩, hq, hret⟩, hcopy, hsaved⟩ := h
  have hor : ∀ i, down i = false → i ≠ l → (down i || i == l) = false := fun i hi hil => by simp [hi, hil]
  have hcopy' : ∀ i, ch.copy = some i → (down i || i == l) = false := fun i hi =>
    hor i (h4 i hi) fun hil => hcopy (hil ▸ hi)
  have hsaved' : ∀ i, ch.saved = some i → (down i || i == l) = false := fun i hi =>
    hor i (h5 i hi) fun hil => hsaved (hil ▸ hi)
  have hret' : ∀ r, ch.retune = some r → ∀ i, r.requester = some i → (down i || i == l) = false := fun r hr i hi =>
    hor i (h9 r hr i hi) fun hil => hret r hr (hil ▸ hi)
  have hdue (hl : ch.holder = some l) (e : RxEntry) (he : e ∈ ch.rxq) :
      e.due ≠ [] ∧ e.due.Nodup ∧ ∀ i ∈ e.due, (none : Option Link) = some i ∨ ch.copy = some i :=
    ⟨(h11 e he).1, (h11 e he).2.1, fun i hi => .inr (((h11 e he).2.2 i hi).resolve_left fun hi' => by
      rw [hl, Option.some.injEq] at hi'; exact hq e he (hi' ▸ hi))⟩
  unfold Channel.unheld
  split
  · rename_i hl
    split
    · exact ⟨nofun, fun _ => rfl, nofun, hcopy', hsaved', nofun, fun o ho => ⟨.inr rfl, (h7 o ho).2⟩, h8, hret', h10,
          hdue hl⟩
    · rename_i hs
      exact ⟨fun h => absurd h hs, fun _ => rfl, nofun, hcopy', hsaved', h6, h7, h8, hret', h10, hdue hl⟩
  · rename_i hl
    exact ⟨h1, h2, fun i hi => ⟨hor i (h3 i hi).1 fun hil => hl (hil ▸ hi), (h3 i hi).2⟩, hcopy', hsaved', h6, h7, h8,
        hret',
      h10, h11⟩

theorem Channel.lostLink_roles {ch : Channel} {down : Link → Bool} (h : ch.RolesSound down) (l : Link) :
    (ch.lostLink l).RolesSound fun i => down i || i == l := by
  obtain ⟨hu, ho⟩ := Channel.unoffered_unqueued (Channel.unqueued_unqueued h l)
  exact Channel.unheld_roles (Channel.clearShadow_unshadowed hu ho)

/-- A record whose retune has lost its requester. -/
def Channel.forgotten (ch : Channel) (l : Link) : Channel := { ch with retune := ch.retune.map (Retune.forget l) }

theorem Channel.forgotten_sound {ch : Channel} (h : ch.Sound) (l : Link) : (ch.forgotten l).Sound := by
  obtain ⟨h1, h2, h3, h4, h5, h6⟩ := h
  have hserving : (ch.forgotten l).servingPages = ch.servingPages := by
    unfold Channel.forgotten Channel.servingPages
    cases ch.retune <;> rfl
  have hring : (ch.forgotten l).ringLength = ch.ringLength := by rw [Channel.ringLength, hserving, Channel.ringLength]
  refine ⟨h1, h2, h3, fun hn => ?_, fun ho => ?_, h6⟩
  · obtain ⟨p1, p2, p3, p4, p5⟩ := h4 hn
    refine ⟨p1, hserving.trans p2, by rw [hring]; exact p3, by rw [hring]; exact p4, fun r hr => ?_⟩
    obtain ⟨r', hr', rfl⟩ := Option.map_eq_some_iff.mp hr
    rw [hserving]
    exact p5 r' hr'
  · show ch.retune.map _ = none
    rw [h5 ho]
    rfl

/-- The loss of a link's offer and shadows changes the roles of a record, its rx queue and its retune's requester. -/
theorem Channel.cleared_eq (ch : Channel) (l : Link) : ∃ x, x = ((ch.unqueued l).unoffered l).clearShadow l ∧
    { ch.forgotten l with
      state := x.state, holder := x.holder, copy := x.copy, saved := x.saved, offer := x.offer, rxq := x.rxq } = x ∧
    (x.state = .free ↔ ch.state = .free) ∧ (x.state = .opening ↔ ch.state = .opening) ∧
    (x.state = .orphaned ↔ ch.state = .orphaned) := by
  refine ⟨_, rfl, ?_⟩
  unfold Channel.unoffered
  split
  · unfold Channel.targetDown
    rcases (({ ch.unqueued l with
      saved := if (ch.unqueued l).saved = some l then none else (ch.unqueued l).saved } :
          Channel).endOffer).backToActive_cases
      with ⟨hs, hb⟩ | ⟨hs, hb⟩ <;> rw [hb]
    · have hs : ch.state = .handoverPending := hs
      refine ⟨rfl, ?_⟩
      rw [hs]
      exact ⟨⟨nofun, nofun⟩, ⟨nofun, nofun⟩, ⟨nofun, nofun⟩⟩
    · exact ⟨rfl, .rfl, .rfl, .rfl⟩
  · exact ⟨rfl, .rfl, .rfl, .rfl⟩

theorem Channel.unheld_cases (ch : Channel) (l : Link) :
    (ch.unheld l = { ch with holder := (ch.unheld l).holder }) ∨
      ((ch.state = .active ∨ ch.state = .handoverPending) ∧
        ch.unheld l = { ch.orphanHold with holder := none, state := .orphaned }) := by
  unfold Channel.unheld
  split
  · split
    · exact .inr ⟨‹_›, rfl⟩
    · exact .inl rfl
  · exact .inl rfl

theorem Channel.orphaned_sound {ch : Channel} (h : ch.Sound) (hr : ch.state.runs = true) :
    ({ ch.orphanHold with holder := none, state := .orphaned } : Channel).Sound := by
  obtain ⟨hf, -⟩ := (Life.runs_iff _).mp hr
  obtain ⟨h1, h2, h3, h4, -, h6, h7, h8, h9, h10, h11, -, -, h14, h15, -⟩ := h
  have hp := h4 hf
  exact ⟨h1, Filter.orphanHold_sound h2, Filter.orphanHold_sound h3, fun _ => hp, nofun, h6, h7, h8, h9, h10, h11,
    Nat.zero_le _, Nat.zero_le _, h14, h15, fun _ => ⟨Gear.adapts_held _, Gear.adapts_held _, rfl, rfl⟩⟩

theorem Channel.free_lostLink (l : Link) : Channel.free.lostLink l = Channel.free := by revert l; decide

theorem EqCtx.orphanHold_sound {q : EqCtx} (h : q.Sound) : q.orphanHold.Sound := h

theorem Channel.lostLink_change (ch : Channel) (l : Link) (down : Link → Bool) : ch.Change down (ch.lostLink l) := by
  obtain ⟨x, hx, hform, hf, ho, horph⟩ := ch.cleared_eq l
  have hroles : ch.RolesSound down → (ch.lostLink l).RolesSound down := fun h =>
    (Channel.lostLink_roles h l).of_down fun i hi => by simp only [Bool.or_eq_false_iff] at hi; exact hi.1
  have hxsound : ch.Sound → x.Sound := fun h => Channel.Sound.of_role (Channel.forgotten_sound h l) hf ho horph.mp hform
  have hacc : x.slot = ch.slot ∧ x.charge = ch.charge ∧ x.pages = ch.pages ∧ x.nn = ch.nn ∧ x.nf = ch.nf ∧
      x.retune.map Retune.nf = ch.retune.map Retune.nf := by
    rw [← hform]
    refine ⟨rfl, rfl, rfl, rfl, rfl, ?_⟩
    show (ch.retune.map _).map _ = _
    rw [Option.map_map]
    rfl
  have heq : x.eq = ch.eq := by rw [← hform]; rfl
  by_cases hfree : ch = Channel.free
  · rw [hfree, Channel.free_lostLink]
    exact .refl _ _
  · unfold Channel.lostLink at *
    rw [← hx] at *
    rcases x.unheld_cases l with h | ⟨hs, h⟩ <;> rw [h] at hroles ⊢
    · exact .of_role hf ho hfree hxsound hroles (f :=
          id) (by rw [Option.map_id_fun]; exact heq) (fun _ => rfl) (fun _ => id)
        hacc
    · have hr : x.state.runs = true := by rcases hs with h | h <;> rw [h] <;> rfl
      obtain ⟨hrf, hro⟩ := (Life.runs_iff _).mp hr
      refine .of_role ⟨nofun, fun h => absurd (hf.mpr h) hrf⟩ ⟨nofun, fun h => absurd (ho.mpr h) hro⟩ hfree
        (fun h => Channel.orphaned_sound (hxsound h) hr) hroles (f :=
            EqCtx.orphanHold) ?_ (fun _ => rfl) (fun _ => id) hacc
      rw [← heq]
      rfl

/-- A link that is not DOWN keeps its channels when another goes DOWN. -/
theorem Channel.lostLink_held {ch : Channel} {i l : Link} (h : ch.HeldBy i) (hil : i ≠ l) :
    (ch.lostLink l).HeldBy i := by
  obtain ⟨hholder, hstate⟩ := ch.cleared_state l
  obtain ⟨hs, hh⟩ := h
  unfold Channel.lostLink Channel.unheld
  rw [if_neg (by rw [hholder, hh]; exact fun h => hil (Option.some.inj h))]
  exact ⟨hstate.mpr hs, hholder.trans hh⟩

/-! ### A link goes DOWN (R135) -/

theorem LinkPort.foldl_told_traffic (ns : List Notice) (p : LinkPort) : p.Traffic (ns.foldl LinkPort.told p) := by
  induction ns generalizing p with
  | nil => exact .refl p
  | cons n ns ih => exact (p.told_traffic n).trans (ih _)

theorem LinkPort.foldl_told_down (ns : List Notice) {p : LinkPort} (h : p.state = .down) :
    ns.foldl LinkPort.told p = p := by
  induction ns with
  | nil => rfl
  | cons n ns ih => rw [List.foldl_cons, LinkPort.told, if_pos h, ih]

theorem LinkPort.goDown_sound {p : LinkPort} (h : p.Sound) : p.goDown.Sound := by
  obtain ⟨-, -, -, -, -, h6, -⟩ := h
  exact ⟨List.nodup_nil, List.nodup_nil, Nat.zero_le _, Nat.zero_le _, ⟨⟨nofun, nofun⟩, rfl⟩, h6,
    ⟨nofun, fun hd => absurd rfl hd.1⟩, fun _ => ⟨rfl, rfl, rfl, rfl, rfl, rfl, rfl, rfl, rfl, rfl⟩, List.nodup_nil,
    fun k => ⟨nofun, fun ⟨j, hj, _⟩ => by cases hj⟩, nofun⟩

/-- Everything a link's going DOWN does: every record loses it, its port is emptied, its held commands and the slot of
its running job go, and the other ports receive the channels' notices. -/
theorem State.linkDown_spec (s : State) (l : Link) :
    { s with channels := (s.linkDown l).channels, links := (s.linkDown l).links
             engine := s.engine.map (orphanJob l), held := s.held.filter fun h => h.link != l } = s.linkDown l ∧
    (∀ c, (s.linkDown l).chan c = (s.chan c).lostLink l) ∧ (s.linkDown l).port l = (s.port l).goDown ∧
    ∀ i, i ≠ l → (s.linkDown l).port i =
      (allChans.flatMap fun c => (s.chan c).lostNotices c l i).foldl LinkPort.told (s.port i) := by
  obtain ⟨h1, h2, h3⟩ := State.foldl_linkLostBy l allChans allChans_nodup
    { s.updPort l LinkPort.goDown with
      engine := s.engine.map (orphanJob l), held := s.held.filter fun h => h.link != l }
  have hport : ∀ i, ({ s.updPort l LinkPort.goDown with
      engine := s.engine.map (orphanJob l), held := s.held.filter fun h => h.link != l } : State).port i =
      (s.updPort l LinkPort.goDown).port i := fun _ => rfl
  refine ⟨h1, fun c => (h2 c).trans (if_pos (mem_allChans c)), (h3 l).trans ?_, fun i hi => (h3 i).trans ?_⟩
  · rw [hport, State.port_updPort]
    exact LinkPort.foldl_told_down _ rfl
  · rw [hport, State.port_updPort_ne _ _ _ _ hi]
    rfl

theorem orphanJob_closed (l : Link) (j : RunJob) :
    (orphanJob l j).chan = j.chan ∧ (orphanJob l j).closed = j.closed ∧ (orphanJob l j).link = j.link := by
  unfold orphanJob
  split <;> exact ⟨rfl, rfl, rfl⟩

theorem State.linkDown_keeps (s : State) (l : Link) : s.Keeps (s.linkDown l) := by
  obtain ⟨hrest, hchan, hl, hother⟩ := s.linkDown_spec l
  generalize s.linkDown l = t at *
  have htraffic : ∀ i, i ≠ l → (s.port i).Traffic (t.port i) := fun i hi => by
    rw [hother i hi]; exact LinkPort.foldl_told_traffic _ _
  have hchange : ∀ c, (s.chan c).Change s.isDown (t.chan c) := fun c => by
    rw [hchan]; exact Channel.lostLink_change _ _ _
  have hengine : t.engine = s.engine.map (orphanJob l) := by rw [← hrest]
  have hjobs : ∀ i, ∀ j ∈ (t.port i).jobs, i ≠ l := fun i j hj hi => by
    rw [hi, hl] at hj; cases hj
  have hquiet (hs : s.ResetQuiet) : t.ResetQuiet := fun hc => by
    have hclear : t.clear = s.clear := by rw [← hrest]
    obtain ⟨he, hj⟩ := hs (hclear ▸ hc)
    refine ⟨by rw [hengine, he]; rfl, fun i => ?_⟩
    by_cases hi : i = l
    · rw [hi, hl]; rfl
    · exact (htraffic i hi).empty (hj i)
  refine ⟨by rw [← hrest], fun h => ?_, fun h =>
      h.of_change hchange (by rw [← hrest]) (by rw [← hrest]) (by rw [← hrest]),
    fun h c => (hchange c).sound (h c), fun h c => ?_, fun h => ?_, fun _ h => ?_⟩
  · have hpool : t.pool = s.pool := by rw [← hrest]
    rw [State.PoolSound, hpool]; exact h
  · rw [hchan]
    refine (Channel.lostLink_roles (h c) l).of_down fun i hi => ?_
    simp only [Bool.or_eq_false_iff, beq_eq_false_iff_ne, State.isDown, ne_eq] at hi ⊢
    exact mt (htraffic i hi.2).down hi.1
  · obtain ⟨hp, hqu, hrun, heng⟩ := h
    refine ⟨fun i => ?_, hquiet hqu, fun i j hj hr => ?_, fun e he k hk => ?_⟩
    · by_cases hi : i = l
      · rw [hi, hl]; exact LinkPort.goDown_sound (hp l)
      · exact (htraffic i hi).sound (hp i)
    · have hi := hjobs i j hj
      have hseat := hrun i j (((htraffic i hi).running (hp i) j hr).mp hj) hr
      obtain ⟨e, he, hpair⟩ := Option.map_eq_some_iff.mp hseat
      have hlink : e.link ≠ l := fun hel => hi ((Prod.ext_iff.mp hpair).1.symm.trans hel)
      rw [hengine, he, Option.map_some, Option.map_some, orphanJob, if_neg hlink, hpair]
    · obtain ⟨e', he', rfl⟩ := Option.map_eq_some_iff.mp (hengine ▸ he)
      have hlink : e'.link ≠ l := fun hel => by
        rw [orphanJob, if_pos hel] at hk; cases hk
      rw [orphanJob, if_neg hlink] at hk ⊢
      obtain ⟨j, hj, hjk, hjr⟩ := heng e' he' k hk
      exact ⟨j, ((htraffic _ hlink).running (hp _) j hjr).mpr hj, hjk, hjr⟩
  · refine h.of_moves (by rw [← hrest]) (fun c => (hchange c).toMove) hquiet (fun e he hcl => ?_) fun i j hj hq => ?_
    · obtain ⟨-, -, -, -, -, -, h7, -⟩ := h
      obtain ⟨e', he', rfl⟩ := Option.map_eq_some_iff.mp (hengine ▸ he)
      obtain ⟨hc, hcl', -⟩ := orphanJob_closed l e'
      rw [hc]
      exact h7 e' he' (hcl' ▸ hcl)
    · obtain ⟨-, -, -, -, -, h6, -⟩ := h
      have hi := hjobs i j hj
      obtain ⟨c, hc, hh, hsome⟩ := h6 i j ((htraffic i hi).queued j hj hq) hq
      exact ⟨c, hc, by rw [hchan]; exact Channel.lostLink_held hh hi, hsome⟩

/-! ### RESET_DEVICE (R140) -/

/-- Ports changed one after the other, each of a list of links once. -/
theorem State.foldl_updPort (f : Link → LinkPort → LinkPort) (ls : List Link) (hn : ls.Nodup) (s : State) :
    s.SameButPorts (ls.foldl (fun s i => s.updPort i (f i)) s) ∧
    ∀ i, (ls.foldl (fun s i => s.updPort i (f i)) s).port i = if i ∈ ls then f i (s.port i) else s.port i := by
  induction ls generalizing s with
  | nil => exact ⟨rfl, fun i => by simp⟩
  | cons l ls ih =>
    obtain ⟨hl, hls⟩ := List.nodup_cons.mp hn
    obtain ⟨h1, h2⟩ := ih hls (s.updPort l (f l))
    refine ⟨State.SameButPorts.trans (s.sameButPorts_updPort l _) h1, fun i => ?_⟩
    rw [List.foldl_cons, h2, State.port_updPort_ite]
    by_cases hi : i = l
    · subst hi
      rw [if_pos rfl, if_neg hl, if_pos (by simp)]
    · simp [hi]

/-- Records changed one after the other, each of a list of channels once. -/
theorem State.foldl_updChan (f : Channel → Channel) (cs : List Chan) (hn : cs.Nodup) (s : State) :
    { s with channels := (cs.foldl (fun s c => s.updChan c f) s).channels } = cs.foldl (fun s c => s.updChan c f) s ∧
    ∀ c, (cs.foldl (fun s c => s.updChan c f) s).chan c = if c ∈ cs then f (s.chan c) else s.chan c := by
  induction cs generalizing s with
  | nil => exact ⟨rfl, fun c => by simp⟩
  | cons c cs ih =>
    obtain ⟨hc, hcs⟩ := List.nodup_cons.mp hn
    obtain ⟨h1, h2⟩ := ih hcs (s.updChan c f)
    refine ⟨?_, fun c' => ?_⟩
    · rw [List.foldl_cons]
      exact h1
    · rw [List.foldl_cons, h2, State.chan_updChan_ite]
      by_cases hi : c' = c
      · subst hi
        rw [if_pos rfl, if_neg hc, if_pos (by simp)]
      · simp [hi]

/-- Everything the acceptance of a RESET_DEVICE does (R22, R110, R140). -/
theorem State.acceptReset_spec (s : State) (l : Link) (k : Fin 4) :
    { s with channels := (s.acceptReset l k).channels, links := (s.acceptReset l k).links
             clear := .device, engine := none, held := [] } = s.acceptReset l k ∧
    (∀ c, (s.acceptReset l k).chan c = (s.chan c).stopped) ∧
    ∀ i, (s.acceptReset l k).port i = (s.port i).deviceReset (if i = l then some k else none) := by
  unfold State.acceptReset
  dsimp only
  generalize hA : ({ s with clear := .device, engine := none, held := [] } : State) = A
  obtain ⟨h1, h2⟩ := State.foldl_updPort (fun i p => p.deviceReset (if i = l then some k else none)) allLinks
    allLinks_nodup A
  generalize allLinks.foldl (fun s i => State.updPort s i fun p => p.deviceReset (if i = l then some k else none)) A = B
    at h1 h2 ⊢
  obtain ⟨h3, h4⟩ := State.foldl_updChan Channel.stopped allChans allChans_nodup B
  generalize allChans.foldl (fun s c => State.updChan s c Channel.stopped) B = C at h3 h4 ⊢
  have hlinks : C.links = B.links := by rw [← h3]
  refine ⟨?_, fun c => ?_, fun i => ?_⟩
  · rw [← h3, ← h1, ← hA]
  · rw [h4, if_pos (mem_allChans c), h1.chan, ← hA]
    rfl
  · rw [State.port, hlinks]
    refine (h2 i).trans ?_
    rw [if_pos (mem_allLinks i), ← hA]
    rfl

theorem OutMsg.detached_slot (m : OutMsg) : (Tx.sending m.detached).jobSlot = none := by cases m <;> rfl

theorem Tx.detached_slot (t : Tx) : t.detached.jobSlot = none := by
  cases t with
  | sending m => exact m.detached_slot
  | idle | resyncPair => rfl

theorem LinkPort.deviceReset_sound {p : LinkPort} (h : p.Sound) (keep : Option (Fin 4)) :
    (p.deviceReset keep).Sound := by
  obtain ⟨h1, -, -, h4, h5, h6, h7, h8, -⟩ := h
  refine ⟨h1.sublist (List.Sublist.map _ List.filter_sublist), List.nodup_nil, Nat.zero_le _, h4, h5, h6, h7, fun hd =>
      ?_,
    List.nodup_nil, fun k => ⟨nofun, fun ⟨j, hj, _⟩ => by cases hj⟩, fun k hk => ?_⟩
  · obtain ⟨e1, -, -, -, e5, -, -, -, -, e10⟩ := h8 hd
    refine ⟨?_, rfl, rfl, rfl, ?_, rfl, rfl, rfl, rfl, e10⟩
    · simp [LinkPort.deviceReset, LinkPort.clearCounters, e1]
    · show p.tx.detached = _
      rw [e5]
      rfl
  · have hk : p.tx.detached.jobSlot = some k := hk
    rw [Tx.detached_slot] at hk
    cases hk

theorem Channel.stopped_change (ch : Channel) (down : Link → Bool) : ch.Change down ch.stopped where
  isFree := .rfl
  isOpening := .rfl
  sound := by
    rintro ⟨h1, h2, h3, h4, h5, h6, h7, h8, h9, h10, h11, h12, h13, -, h15⟩
    exact ⟨h1, h2, h3, h4, h5, h6, h7, h8, h9, h10, h11, h12, h13, Nat.zero_le _, h15⟩
  roles := by
    rintro ⟨h1, h2, h3, h4, h5, h6, h7, h8, h9, -, -⟩
    exact ⟨h1, h2, h3, h4, h5, h6, h7, h8, h9, Nat.zero_le _, nofun⟩
  free := by rintro rfl; rfl
  eqTaps := rfl
  eqSome := rfl
  eqSound := id
  account := ⟨rfl, rfl, rfl, rfl, rfl, rfl⟩

theorem State.acceptReset_keeps (s : State) (l : Link) (k : Fin 4) : s.Keeps (s.acceptReset l k) := by
  obtain ⟨hrest, hchan, hport⟩ := s.acceptReset_spec l k
  generalize s.acceptReset l k = t at *
  have hchange : ∀ c, (s.chan c).Change s.isDown (t.chan c) := fun c => by rw [hchan]; exact Channel.stopped_change _ _
  have hengine : t.engine = none := by rw [← hrest]
  have hjobs : ∀ i, (t.port i).jobs = [] := fun i => by rw [hport]; rfl
  have hquiet : t.ResetQuiet := fun _ => ⟨hengine, hjobs⟩
  refine ⟨by rw [← hrest], fun h => ?_, fun h =>
      h.of_change hchange (by rw [← hrest]) (by rw [← hrest]) (by rw [← hrest]),
    fun h c => (hchange c).sound (h c), fun h c => ?_, fun h => ⟨fun i => ?_, hquiet, fun i j hj => ?_, fun e he => ?_⟩,
    fun _ h => ?_⟩
  · have hpool : t.pool = s.pool := by rw [← hrest]
    rw [State.PoolSound, hpool]; exact h
  · refine ((hchange c).roles (h c)).of_down fun i hi => ?_
    rw [State.isDown, hport]
    exact hi
  · rw [hport]; exact LinkPort.deviceReset_sound (h.1 i) _
  · rw [hjobs] at hj; cases hj
  · rw [hengine] at he; cases he
  · refine h.of_moves (by rw [← hrest]) (fun c => (hchange c).toMove) (fun _ => hquiet) (fun e he => ?_) fun i j hj =>
        ?_
    · rw [hengine] at he; cases he
    · rw [hjobs] at hj; cases hj

/-! ### The clears, power-on and the reset pin (R22, R142, R143) -/

/-- The channels, the accounts and the equalizer of a part whose channels are all FREE and whose pools are unused. -/
structure State.Cleared (t : State) : Prop where
  chan : ∀ c, t.chan c = Channel.free
  slotMap : t.slotMap = Vector.replicate 64 none
  echoUsed : t.echoUsed = 0
  freeList : t.freeList = List.finRange 128
  pool : t.pool = []
  eqUsed : t.eqUsed = 0
  engine : t.engine = none

theorem State.Cleared.accounts {t : State} (h : t.Cleared) : t.AccountsSound := by
  obtain ⟨hc, hm, hu, hf, -⟩ := h
  have hpages : (allChans.flatMap fun c => (t.chan c).pages) = [] := by
    simp [hc, Channel.free]
  refine ⟨fun c _ => by rw [hc]; exact ⟨rfl, rfl, rfl, rfl⟩, fun c _ => by rw [hc]; rfl, fun c hn =>
      absurd (by rw [hc]; rfl) hn,
    fun k c => ?_, ?_, ?_, ?_, by rw [hu]; exact Nat.zero_le _⟩
  · rw [hc, hm]
    simp [Channel.free]
  · rw [hpages, List.append_nil, hf]; exact List.nodup_finRange 128
  · rw [hpages, List.append_nil, hf]; exact List.length_finRange
  · rw [hu]
    simp [hc, Channel.free]

theorem State.Cleared.pools {t : State} (h : t.Cleared) : t.PoolSound := by
  rw [State.PoolSound, h.pool]
  exact ⟨rfl, nofun⟩

theorem State.Cleared.channels {t : State} (h : t.Cleared) : t.ChannelsSound := fun c => by
  rw [h.chan]; exact Channel.free_sound

theorem State.Cleared.roles {t : State} (h : t.Cleared) : t.RolesSound := fun c => by
  rw [h.chan]; exact Channel.free_roles _

theorem State.Cleared.eqSound {t : State} (h : t.Cleared) (hjobs : ∀ l, (t.port l).jobs = []) : t.EqSound := by
  refine ⟨fun c _ => h.chan c, fun c _ => by rw [h.chan]; rfl, fun c q hq => (by rw [h.chan] at hq; cases hq), ?_,
    by rw [h.eqUsed]; exact Nat.zero_le _, fun l j hj => (by rw [hjobs] at hj; cases hj),
    fun e he => (by rw [h.engine] at he; cases he),
    fun _ => ⟨h.engine, hjobs⟩⟩
  rw [h.eqUsed]
  have hz : ∀ c, (t.chan c).eqTaps = 0 := fun c => by rw [h.chan]; rfl
  simp [hz]

theorem State.Cleared.ports {t : State} (h : t.Cleared) (hjobs : ∀ l, (t.port l).jobs = []) (hp :
    ∀ l, (t.port l).Sound) :
    t.PortsSound :=
  ⟨hp, fun _ => ⟨h.engine, hjobs⟩, fun l j hj => (by rw [hjobs] at hj; cases hj), fun e he =>
      (by rw [h.engine] at he; cases he)⟩

theorem State.clearedContexts_cleared (s : State) : s.clearedContexts.Cleared where
  chan c := by simp [State.chan, State.clearedContexts]
  slotMap := rfl
  echoUsed := rfl
  freeList := rfl
  pool := rfl
  eqUsed := rfl
  engine := rfl

theorem State.clearedContexts_keeps {s : State} (hclear : s.clear ≠ .none) : s.Keeps s.clearedContexts where
  pending := rfl
  pool _ := s.clearedContexts_cleared.pools
  accounts _ := s.clearedContexts_cleared.accounts
  channels _ := s.clearedContexts_cleared.channels
  roles _ := s.clearedContexts_cleared.roles
  ports h := s.clearedContexts_cleared.ports (h.2.1 hclear).2 h.1
  eq _ h := by
    obtain ⟨-, -, -, -, -, -, -, hq⟩ := h
    exact s.clearedContexts_cleared.eqSound (hq hclear).2

theorem LinkPort.powerOn_sound : LinkPort.powerOn.Sound :=
  ⟨List.nodup_nil, List.nodup_nil, by decide, by decide, by decide, by decide, by decide, by decide, List.nodup_nil,
    fun k => ⟨nofun, fun ⟨j, hj, _⟩ => by cases hj⟩, nofun⟩

/-- A part with the power-on values of its channels, pools and ports. -/
structure State.Fresh (t : State) : Prop extends t.Cleared where
  port : ∀ l, t.port l = LinkPort.powerOn

theorem State.Fresh.of_reset {t : State} (h : { State.reset with
    pin := t.pin, clear := t.clear, freeCount := t.freeCount, pending := t.pending } = t) : t.Fresh := by
  rw [← h]
  refine ⟨⟨fun c => ?_, rfl, rfl, rfl, rfl, rfl, rfl⟩, fun l => ?_⟩
  · simp [State.chan, State.reset]
  · simp [State.port, State.reset]

theorem State.Fresh.sound {t : State} (h : t.Fresh) : t.Sound := by
  have hjobs : ∀ l, (t.port l).jobs = [] := fun l => by rw [h.port]; rfl
  exact ⟨h.pools, h.accounts, h.channels, h.roles, h.toCleared.ports hjobs fun l =>
      by rw [h.port]; exact LinkPort.powerOn_sound,
    h.eqSound hjobs⟩

theorem State.Fresh.keeps {s t : State} (h : t.Fresh) (hp : t.pending = s.pending) : s.Keeps t := by
  obtain ⟨h1, h2, h3, h4, h5, h6⟩ := h.sound
  exact ⟨hp, fun _ => h1, fun _ => h2, fun _ => h3, fun _ => h4, fun _ => h5, fun _ _ => h6⟩

end Sys2Proof.Machine

/-! SUPPORT. Every command and event, by its own lemma: what it does keeps every invariant and leaves the queue. -/

namespace Sys2Proof.Machine

/-! ### The takings of commands -/

/-- A taking that keeps every invariant, on a link that is UP. -/
def TakingKeeps (take : Taking) : Prop :=
  ∀ (l : Link) (k : Fin 4) (m : CmdMsg) (s : State), (s.port l).state = .up → s.Keeps (take l k m s).1

theorem State.isDown_of_up {s : State} {l : Link} (h : (s.port l).state = .up) : s.isDown l = false := by
  rw [State.isDown, h]; rfl

theorem takeOpen_keeps : TakingKeeps takeOpen := fun l k m s hup => by
  refine withChan_keeps fun c => ?_
  split
  · exact .refl s
  · rename_i hok
    split
    · rename_i slot lb hslot hlb
      unfold openRefusal at hok
      rw [hslot, hlb] at hok
      dsimp only at hok
      split_ifs at hok with h1 h2 h3 h4
      exact State.openTaken_keeps lb (not_not.mp h1) (by simpa using h2) (not_lt.mp h3) (not_lt.mp h4)
        (State.isDown_of_up hup)
    · exact .refl s

theorem takeClose_keeps : TakingKeeps takeClose := fun l k m s _ => by
  refine withChan_keeps fun c => ?_
  split
  · exact .refl s
  · exact s.closeTaken_keeps c

theorem takeSetNear_keeps : TakingKeeps takeSetNear := fun l k m s _ => by
  refine asHolder_keeps fun c hh => ?_
  dsimp only
  split
  · exact .refl s
  · obtain ⟨h8, h64⟩ := effectiveNear_range (fieldAt (m.word 1) 0 8)
    exact State.setNear_keeps hh h8 h64 (not_lt.mp ‹_›)

/-- The sizes a SET_FAR asks for lie in the ranges of R6. -/
theorem Channel.farRequest_sound (ch : Channel) (m : CmdMsg) : FarSound (ch.farRequest m).nf (ch.farRequest m).d := by
  obtain ⟨-, -, h⟩ := effectiveSizes_sound 0 (fieldAt (m.word 1) 0 8) (fieldAt (m.word 1) 16 16)
  exact h

theorem takeSetFar_keeps : TakingKeeps takeSetFar := fun l k m s hup => by
  refine asHolder_keeps fun c hh => ?_
  split
  · exact .refl s
  · exact State.acceptRetune_keeps hh m.tag ((s.chan c).farRequest_sound m) rfl (State.isDown_of_up hup) ‹_›

theorem takeSetAdapt_keeps : TakingKeeps takeSetAdapt := fun l k m s _ => by
  refine asHolder_keeps fun c hh => ?_
  split
  · exact .refl s
  · exact State.adaptTo_keeps hh m

theorem takeClearTaps_keeps : TakingKeeps takeClearTaps := fun l k m s _ => by
  refine withChan_keeps fun c => ?_
  split
  · exact .refl s
  · exact clearTapsNow_keeps l m s

theorem takeSetPlayout_keeps : TakingKeeps takeSetPlayout := fun l k m s _ => by
  refine asHolder_keeps fun c hh => ?_
  split
  · exact .refl s
  · refine State.setPlayout_keeps (Life.runs_of_held hh) ?_ ?_ _
    · unfold clampNat; omega
    · unfold clampNat; omega

theorem takeSetLine_keeps : TakingKeeps takeSetLine := fun l k m s _ => by
  refine asHolder_keeps fun c hh => ?_
  split
  · exact .refl s
  · rename_i lb _
    exact State.free_keeps (Life.runs_of_held hh)
      (fun ch => { ch with loopback := lb, idle := sampleAt (m.word 1) 16 }) rfl

theorem takeSetNotices_keeps : TakingKeeps takeSetNotices := fun l k m s _ => by
  refine asHolder_keeps fun c hh => ?_
  dsimp only
  split
  · exact .refl s
  · exact State.free_keeps (Life.runs_of_held hh) (fun ch =>
        { ch with mask := BitVec.ofNat 6 (fieldAt (m.word 1) 0 8) }) rfl

theorem linkOf_255 : linkOf 255 = none := rfl

/-- A SET_SHADOW that is not refused names no link, or a link that is not DOWN and not the sender. -/
theorem shadowRefusal_none {s : State} {l : Link} {n : Nat} (h : shadowRefusal s l n = none) :
    linkOf n ≠ some l ∧ ∀ i, linkOf n = some i → s.isDown i = false := by
  unfold shadowRefusal at h
  split at h
  · rename_i hn
    rw [hn, linkOf_255]
    exact ⟨nofun, nofun⟩
  · split at h
    · rename_i k hk
      split_ifs at h with h1 h2
      rw [hk]
      exact ⟨fun h => h1 (Option.some.inj h), fun i hi => by rw [← Option.some.inj hi]; simpa using h2⟩
    · cases h

theorem takeSetShadow_keeps : TakingKeeps takeSetShadow := fun l k m s _ => by
  refine asHolder_keeps fun c hh => ?_
  dsimp only
  split
  · exact .refl s
  · rename_i hok
    obtain ⟨hne, hdown⟩ := shadowRefusal_none hok
    refine .setChan (Channel.shadowTo_change hh hne hdown) fun i _ hi => ?_
    exact Channel.shadowTo_held _ hi

/-- A HANDOVER that is not refused is of an ACTIVE channel held by the sender, to another link that is not DOWN. -/
theorem handoverRefusal_none {s : State} {c : Chan} {l : Link} {n : Nat} (h : handoverRefusal s c l n = none) {k : Link}
    (hk : linkOf n = some k) :
    (s.chan c).state = .active ∧ (s.chan c).holder = some l ∧ k ≠ l ∧ s.isDown k = false := by
  unfold handoverRefusal at h
  rw [hk] at h
  dsimp only at h
  split_ifs at h with h1 h2 h3 h4 h5
  obtain ⟨hfree, horph, hholder⟩ : (s.chan c).state ≠ .free ∧ (s.chan c).state ≠ .orphaned ∧ (s.chan c).holder =
      some l := by
    simpa only [not_or, not_not, ne_eq] using h2
  refine ⟨?_, hholder, h4, by simpa using h5⟩
  cases hs : (s.chan c).state with
  | free => exact absurd hs hfree
  | opening => exact absurd hs h1
  | active => rfl
  | handoverPending => exact absurd hs h3
  | orphaned => exact absurd hs horph

theorem Channel.offerTo_held {ch : Channel} {l : Link} (h : ch.HeldBy l) (k : Link) (w : Nat) :
    (ch.offerTo k w).HeldBy l :=
  ⟨.inr rfl, h.2⟩

theorem takeHandover_keeps : TakingKeeps takeHandover := fun l k m s _ => by
  refine withChan_keeps fun c => ?_
  split
  · exact .refl s
  · rename_i hok htarget
    obtain ⟨hactive, hholder, hne, hdown⟩ := handoverRefusal_none hok htarget
    exact State.Keeps.trans (.updChan (Channel.offerTo_change ⟨.inl hactive, hholder⟩ hactive hne hdown _)
      fun i hi => Channel.offerTo_held hi _ _) (State.notify_keeps _ _ _)
  · exact .refl s

theorem takeAccept_keeps : TakingKeeps takeAccept := fun l k m s hup => by
  refine withChan_keeps fun c => ?_
  split
  · exact State.acceptTaken_keeps ‹_› (State.isDown_of_up hup)
  · exact .refl s

theorem Channel.offer_of_offeredTo {ch : Channel} {l : Link} (h : ch.offeredTo l = true) :
    ∃ o, ch.offer = some o ∧ o.target = l := by
  simp only [Channel.offeredTo, Bool.and_eq_true, beq_iff_eq] at h
  exact Option.map_eq_some_iff.mp h.2

theorem takeDecline_keeps : TakingKeeps takeDecline := fun l k m s _ => by
  refine withChan_keeps fun c => ?_
  split
  · rename_i ho
    obtain ⟨o, ho, -⟩ := Channel.offer_of_offeredTo ho
    exact (State.offerFailed_keeps ho).trans (State.notifyEach_keeps _ _ _)
  · exact .refl s

theorem takeAdopt_keeps : TakingKeeps takeAdopt := fun l k m s hup => by
  refine withChan_keeps fun c => ?_
  split
  · exact State.adoptTaken_keeps ‹_› (State.isDown_of_up hup)
  · exact .refl s

theorem takeEqOpen_keeps : TakingKeeps takeEqOpen := fun l k m s _ => by
  refine withChan_keeps fun c => ?_
  split
  · exact .refl s
  · exact eqOpenNow_keeps l m s

theorem takeEqClose_keeps : TakingKeeps takeEqClose := fun l k m s _ => by
  unfold takeEqClose withChan
  split
  · rename_i c hc
    dsimp only
    split
    · exact .refl s
    · rename_i hjob
      refine eqCloseNow_keeps l fun c' hc' => ?_
      obtain rfl := Option.some.inj (hc.symm.trans hc')
      simpa using hjob
  · exact .refl s

theorem takeEqSet_keeps : TakingKeeps takeEqSet := fun l k m s _ => by
  refine withChan_keeps fun c => ?_
  split
  · exact .refl s
  · exact eqSetNow_keeps l m s

theorem takePeek_keeps : TakingKeeps takePeek := fun l k m s _ => by
  refine withChan_keeps fun c => ?_
  dsimp only
  split
  · exact .refl s
  · split <;> exact .refl s

theorem takePoke_keeps : TakingKeeps takePoke := fun l k m s _ => by
  refine withChan_keeps fun c => ?_
  split
  · exact .refl s
  · exact pokeNow_keeps l m s

theorem Channel.clearFlags_change (ch : Channel) (set : Nat) (down : Link → Bool) :
    ch.Change down (ch.clearFlags set) := by
  have hform : { ch with flags := (ch.clearFlags set).flags } = ch.clearFlags set := by
    unfold Channel.clearFlags
    split <;> rfl
  have hfree : ch = Channel.free → ch.clearFlags set = Channel.free := by
    rintro rfl
    unfold Channel.clearFlags
    rw [if_neg (by decide)]
    have hz : Channel.free.flags &&& ~~~(BitVec.ofNat 9 set) = 0 := BitVec.zero_and
    rw [hz]
    rfl
  generalize ch.clearFlags set = b at *
  rw [← hform]
  exact ⟨⟨.rfl, .rfl, id, id, fun h => by rw [hform]; exact hfree h, rfl, rfl, id⟩, rfl, rfl, rfl, rfl, rfl, rfl⟩

theorem takeStatus_keeps : TakingKeeps takeStatus := fun l k m s _ => by
  refine withChan_keeps fun c => ?_
  split
  · exact .refl s
  · refine State.Keeps.updChan (f := (·.clearFlags (clearSet m))) (Channel.clearFlags_change _ _ _) fun i hi => ?_
    unfold Channel.clearFlags
    split <;> exact hi

theorem LinkPort.clearCounters_traffic (p : LinkPort) : p.Traffic p.clearCounters :=
  .of_line ⟨rfl, rfl, rfl, rfl, rfl, rfl⟩ rfl rfl id id (fun _ => id) fun _ he => he

theorem takeCounters_keeps : TakingKeeps takeCounters := fun l k m s _ => by
  unfold takeCounters
  split
  · dsimp only
    split
    · exact .updPort (LinkPort.clearCounters_traffic _)
    · exact .refl s
  · refine withChan_keeps fun c => ?_
    split
    · exact .refl s
    · rename_i hok
      dsimp only
      split
      · rename_i hclear
        refine State.free_keeps ?_ (fun ch => { ch with cnt := Counters.zero }) rfl
        unfold Channel.countersRefusal at hok
        cases hs : (s.chan c).state <;> simp_all [Life.runs]
      · exact .refl s

theorem takeDeviceStatus_keeps : TakingKeeps takeDeviceStatus := fun l k m s _ => by
  unfold takeDeviceStatus
  split <;> exact .refl s

theorem LinkPort.setWatch_traffic {p : LinkPort} (hup : p.state = .up) (w : Option Watch) :
    p.Traffic { p with watch := w, watchData := none } :=
  .of_line ⟨rfl, rfl, rfl, rfl, rfl, rfl⟩ rfl rfl id id (fun _ => id) fun hd => by rw [hup] at hd; cases hd

theorem takeWatch_keeps : TakingKeeps takeWatch := fun l k m s hup => by
  refine withChan_keeps fun c => ?_
  dsimp only
  split_ifs
  · exact .refl s
  · exact .refl s
  · exact .refl s
  · exact State.Keeps.setPort (LinkPort.setWatch_traffic hup _)

theorem takeNop_keeps : TakingKeeps takeNop := fun _ _ _ s _ => .refl s

theorem LinkPort.configure_traffic {p : LinkPort} (hup : p.state = .up) {ms : Nat} (h : ms ≤ 255) :
    p.Traffic (p.configure ms) := by
  refine .of_jobs ?_ id rfl
  rintro ⟨h1, h2, h3, h4, h5, -, -, h8⟩
  refine ⟨h1, h2, h3, h4, h5, h, ?_, h8⟩
  simp [LinkPort.configure, hup]

theorem takeLinkConfig_keeps : TakingKeeps takeLinkConfig := fun l k m s hup => by
  unfold takeLinkConfig
  split
  · refine State.Keeps.setPort (LinkPort.configure_traffic hup ?_)
    unfold clampNat
    omega
  · exact .refl s

theorem takeResetDevice_keeps : TakingKeeps takeResetDevice := fun l k m s _ => by
  unfold takeResetDevice
  split_ifs
  · exact .refl s
  · exact .refl s
  · exact s.acceptReset_keeps l k

theorem taking_keeps {i : Instr} {l : Link} {m : CmdMsg} (h : i.command = some (l, m)) : TakingKeeps (taking i) := by
  cases i with
  | openChannel => exact takeOpen_keeps
  | closeChannel => exact takeClose_keeps
  | setNear => exact takeSetNear_keeps
  | setFar => exact takeSetFar_keeps
  | setAdapt => exact takeSetAdapt_keeps
  | clearTaps => exact takeClearTaps_keeps
  | setPlayout => exact takeSetPlayout_keeps
  | setLine => exact takeSetLine_keeps
  | setNotices => exact takeSetNotices_keeps
  | setShadow => exact takeSetShadow_keeps
  | handover => exact takeHandover_keeps
  | accept => exact takeAccept_keeps
  | decline => exact takeDecline_keeps
  | adopt => exact takeAdopt_keeps
  | eqOpen => exact takeEqOpen_keeps
  | eqClose => exact takeEqClose_keeps
  | eqSet => exact takeEqSet_keeps
  | peek => exact takePeek_keeps
  | poke => exact takePoke_keeps
  | status => exact takeStatus_keeps
  | counters => exact takeCounters_keeps
  | deviceStatus => exact takeDeviceStatus_keeps
  | watch => exact takeWatch_keeps
  | nop => exact takeNop_keeps
  | linkConfig => exact takeLinkConfig_keeps
  | resetDevice => exact takeResetDevice_keeps
  | _ => cases h

/-- A command keeps every invariant. -/
theorem exec_command_keeps {i : Instr} {l : Link} {m : CmdMsg} (h : i.command = some (l, m)) (s : State) :
    ∃ t, exec i s = .next t ∧ s.Keeps t :=
  ⟨_, exec_command h s, s.arrive_keeps l m _ fun k t hup => taking_keeps h l k m t hup⟩

/-! ### Data messages and events -/

theorem execTxBlock_keeps (l : Link) (ch : ChanField) (w1 : Word) (samples : Vector Word 8) (s : State) :
    ∃ t, execTxBlock l ch w1 samples s = .next t ∧ s.Keeps t := by
  unfold execTxBlock
  split
  · rename_i hl
    have hheard : s.Keeps (s.updPort l LinkPort.heard) := .updPort (LinkPort.heard_traffic (State.up_of_listens hl))
    split
    · exact ⟨_, rfl, hheard⟩
    · exact ⟨_, rfl, hheard.trans (State.transmitBlock_keeps _ _ _ _ _)⟩
  · exact ⟨_, rfl, .refl s⟩

theorem execEqIn_keeps (l : Link) (ch : ChanField) (tag : Tag) (payload : List Word) (s : State) :
    ∃ t, execEqIn l ch tag payload s = .next t ∧ s.Keeps t := by
  unfold execEqIn
  split
  · rename_i hl
    have hup := State.up_of_listens hl
    have hheard : s.Keeps (s.updPort l LinkPort.heard) := .updPort (LinkPort.heard_traffic hup)
    have hmalformed : s.Keeps (s.updPort l LinkPort.malformed) := .updPort (LinkPort.malformed_traffic hup)
    split
    · exact ⟨_, rfl, hmalformed⟩
    · split
      · split
        · exact ⟨_, rfl, hheard⟩
        · rename_i hmark
          refine ⟨_, rfl, hheard.trans (State.submitJob_keeps ?_ ?_ _ _ _)⟩
          · rw [State.port_updPort]; exact hup
          · simpa [State.mark] using hmark
      · split
        · exact ⟨_, rfl, .updPort (LinkPort.atHeader_traffic hup)⟩
        · exact ⟨_, rfl, hmalformed⟩
  · exact ⟨_, rfl, .refl s⟩

theorem execEqInputPush_keeps (s : State) : ∃ t, execEqInputPush s = .next t ∧ s.Keeps t := by
  unfold execEqInputPush
  split
  · exact ⟨_, rfl, .refl s⟩
  · rename_i j hj
    split
    · rename_i u us q _ hq
      split
      · exact ⟨_, rfl, .refl s⟩
      · exact ⟨_, rfl, State.inputPush_keeps hj hq u us _ _⟩
    · exact ⟨_, rfl, .refl s⟩

theorem execJobComplete_keeps (s : State) : ∃ t, execJobComplete s = .next t ∧ s.Keeps t := by
  unfold execJobComplete
  split
  · exact ⟨_, rfl, .refl s⟩
  · rename_i j hj
    split
    · exact ⟨_, rfl, State.completeJob_keeps hj⟩
    · exact ⟨_, rfl, .refl s⟩

theorem execMalformedHeader_keeps (l : Link) (s : State) : ∃ t, execMalformedHeader l s = .next t ∧ s.Keeps t := by
  unfold execMalformedHeader
  split
  · exact ⟨_, rfl, .updPort (LinkPort.malformed_traffic (State.up_of_listens ‹_›))⟩
  · exact ⟨_, rfl, .refl s⟩

theorem execResync_keeps (l : Link) (s : State) : ∃ t, execResync l s = .next t ∧ s.Keeps t := by
  unfold execResync
  split
  · exact ⟨_, rfl, .refl s⟩
  · exact ⟨_, rfl, .updPort (LinkPort.resynced_traffic _)⟩

theorem execSilenceTimerExpiry_keeps (l : Link) (s : State) :
    ∃ t, execSilenceTimerExpiry l s = .next t ∧ s.Keeps t := by
  unfold execSilenceTimerExpiry
  split
  · exact ⟨_, rfl, s.linkDown_keeps l⟩
  · exact ⟨_, rfl, .refl s⟩

theorem execHandoverExpiry_keeps (c : Chan) (s : State) : ∃ t, execHandoverExpiry c s = .next t ∧ s.Keeps t := by
  unfold execHandoverExpiry
  split
  · rename_i o ho
    split
    · exact ⟨_, rfl, ((State.offerFailed_keeps ho).trans (State.notify_keeps _ _ _)).trans (State.notifyEach_keeps _ _ _)⟩
    · exact ⟨_, rfl, .refl s⟩
  · exact ⟨_, rfl, .refl s⟩

theorem execHandoverTimerTick_keeps (c : Chan) (s : State) : ∃ t, execHandoverTimerTick c s = .next t ∧ s.Keeps t := by
  unfold execHandoverTimerTick
  split
  · rename_i o ho
    split
    · exact ⟨_, rfl, .refl s⟩
    · exact ⟨_, rfl, State.tickOffer_keeps ho _⟩
  · exact ⟨_, rfl, .refl s⟩

theorem execTransmitStart_keeps (l : Link) (s : State) : ∃ t, execTransmitStart l s = .next t ∧ s.Keeps t := by
  unfold execTransmitStart
  split
  · rename_i h
    exact ⟨_, rfl, State.transmit_keeps h.1⟩
  · exact ⟨_, rfl, .refl s⟩

theorem execMessageCompletion_keeps (l : Link) (s : State) : ∃ t, execMessageCompletion l s = .next t ∧ s.Keeps t := by
  unfold execMessageCompletion
  split
  · exact ⟨_, rfl, .updPort (LinkPort.completed_traffic ‹_›)⟩
  · exact ⟨_, rfl, .refl s⟩
  · exact ⟨_, rfl, .refl s⟩

theorem execResyncPairSent_keeps (l : Link) (s : State) : ∃ t, execResyncPairSent l s = .next t ∧ s.Keeps t := by
  unfold execResyncPairSent
  split
  · refine ⟨_, rfl, .updPort (.of_send ⟨rfl, rfl, rfl, rfl, rfl, rfl⟩ rfl rfl id le_rfl rfl ?_)⟩
    rintro ⟨e1, e2, e3, e4, -, e6⟩
    exact ⟨e1, e2, e3, e4, rfl, e6⟩
  · exact ⟨_, rfl, .refl s⟩

theorem execDeviceClearComplete_keeps (s : State) : ∃ t, execDeviceClearComplete s = .next t ∧ s.Keeps t := by
  unfold execDeviceClearComplete
  split
  · rename_i h
    exact ⟨_, rfl, ((State.clearedContexts_keeps (by rw [h]; nofun)).trans
      (.foldl (fun s l => s.answerOperation_keeps l _ _ _ _) _ _)).trans (State.notifyDevice_keeps _ _)⟩
  · exact ⟨_, rfl, .refl s⟩

theorem execPowerOnClearComplete_keeps (s : State) : ∃ t, execPowerOnClearComplete s = .next t ∧ s.Keeps t := by
  unfold execPowerOnClearComplete
  split
  · rename_i h
    exact ⟨_, rfl, State.clearedContexts_keeps (by rw [h]; nofun)⟩
  · exact ⟨_, rfl, .refl s⟩

theorem execPowerOn_keeps (s : State) : ∃ t, execPowerOn s = .next t ∧ s.Keeps t :=
  ⟨_, rfl, (State.Fresh.of_reset rfl).keeps rfl⟩

theorem execResetPinAssert_keeps (s : State) : ∃ t, execResetPinAssert s = .next t ∧ s.Keeps t :=
  ⟨_, rfl, (State.Fresh.of_reset rfl).keeps rfl⟩

theorem execResetPinRelease_keeps (s : State) : ∃ t, execResetPinRelease s = .next t ∧ s.Keeps t := by
  unfold execResetPinRelease
  split
  · exact ⟨_, rfl, (State.Fresh.of_reset rfl).keeps rfl⟩
  · exact ⟨_, rfl, .refl s⟩

/-- Every command and event completes, keeps every invariant and leaves the queue. -/
theorem exec_keeps (i : Instr) (s : State) : ∃ t, exec i s = .next t ∧ s.Keeps t := by
  cases hc : i.command with
  | some p => exact exec_command_keeps (l := p.1) (m := p.2) hc s
  | none =>
    cases i with
    | contextClearComplete c => exact ⟨_, rfl, s.contextCleared_keeps c⟩
    | txBlock l ch w1 samples => exact execTxBlock_keeps l ch w1 samples s
    | eqIn l ch tag payload => exact execEqIn_keeps l ch tag payload s
    | jobStart => exact ⟨_, rfl, s.chooseJob_keeps⟩
    | eqInputPush => exact execEqInputPush_keeps s
    | jobComplete => exact execJobComplete_keeps s
    | malformedHeader l => exact execMalformedHeader_keeps l s
    | resync l => exact execResync_keeps l s
    | silenceTimerExpiry l => exact execSilenceTimerExpiry_keeps l s
    | handoverExpiry c => exact execHandoverExpiry_keeps c s
    | frameSync t inbound => exact ⟨_, rfl, s.sync_keeps t inbound⟩
    | syncWindowClose => exact ⟨_, rfl, s.windowClosed_keeps⟩
    | frameArrival t inbound => exact ⟨_, rfl, s.sync_keeps t inbound⟩
    | transmitStart l => exact execTransmitStart_keeps l s
    | messageCompletion l => exact execMessageCompletion_keeps l s
    | deviceClearComplete => exact execDeviceClearComplete_keeps s
    | powerOn => exact execPowerOn_keeps s
    | resetPinAssert => exact execResetPinAssert_keeps s
    | resetPinRelease => exact execResetPinRelease_keeps s
    | powerOnClearComplete => exact execPowerOnClearComplete_keeps s
    | handoverTimerTick c => exact execHandoverTimerTick_keeps c s
    | resyncPairSent l => exact execResyncPairSent_keeps l s
    | _ => cases hc

/-- One step keeps every invariant; the queue is no part of any of them. -/
theorem step_keeps {s t : State} (h : step s = .next t) :
    ∃ rest, ({ s with pending := rest } : State).Keeps t := by
  unfold step at h
  split at h
  · obtain rfl := Host.Outcome.next.inj h
    exact ⟨s.pending, .refl s⟩
  · rename_i i rest _
    obtain ⟨u, hu, hk⟩ := exec_keeps i { s with pending := rest }
    obtain rfl := Host.Outcome.next.inj (hu.symm.trans h)
    exact ⟨rest, hk⟩

/-- Settles O56: every step keeps every invariant, and with them the pool's form and the accounts. -/
theorem everyStepKeepsPoolAndAccounts : Obligations.EveryStepKeepsPoolAndAccounts := by
  refine ⟨fun s t hs h => ?_, fun s t hs h => ?_⟩ <;> obtain ⟨rest, hk⟩ := step_keeps h
  · exact hk.pool hs
  · exact hk.accounts hs

/-- Settles O57, by the same lemma about every step. -/
theorem everyStepKeepsTheChannelRanges : Obligations.EveryStepKeepsTheChannelRanges := fun s t hs h => by
  obtain ⟨rest, hk⟩ := step_keeps h
  exact hk.channels hs

/-- Settles O58, by the same lemma about every step. -/
theorem everyStepKeepsTheRoles : Obligations.EveryStepKeepsTheRoles := fun s t hs h => by
  obtain ⟨rest, hk⟩ := step_keeps h
  exact hk.roles hs

/-- Settles O59, by the same lemma about every step. -/
theorem everyStepKeepsThePorts : Obligations.EveryStepKeepsThePorts := fun s t hs h => by
  obtain ⟨rest, hk⟩ := step_keeps h
  exact hk.ports hs

/-- Settles O60, by the same lemma about every step; a new QUEUED job needs its sender to hold a running channel. -/
theorem everyStepKeepsTheEqualizer : Obligations.EveryStepKeepsTheEqualizer := fun s t hr hs h => by
  obtain ⟨rest, hk⟩ := step_keeps h
  exact hk.eq hr hs

/-- Settles O2: every arm of the dispatch answers a next state, and keeps the queue with everything else. -/
theorem everyCommandCompletesAndLeavesTheQueue : Obligations.EveryCommandCompletesAndLeavesTheQueue := fun i s => by
  obtain ⟨t, ht, hk⟩ := exec_keeps i s
  exact ⟨t, ht, hk.pending⟩

/-- Settles O1, by the two branches of a step. -/
theorem stepRunsTheFrontCommand : Obligations.StepRunsTheFrontCommand := ⟨fun _ _ _ => rfl, fun _ => rfl⟩

/-- Settles O55: the record of Table 6, read field by field, and a part with the power-on values. -/
theorem resetIsSoundWithTheDefaults : Obligations.ResetIsSoundWithTheDefaults := by
  refine ⟨fun c => ?_, (State.Fresh.of_reset rfl).sound⟩
  have hc : State.reset.chan c = Channel.free := by simp [State.chan, State.reset]
  rw [hc]
  exact ⟨rfl, rfl, rfl, rfl, rfl, rfl, rfl, rfl, rfl, rfl, rfl, by decide, rfl, rfl, rfl, rfl, rfl, rfl, rfl, rfl, rfl,
      rfl,
    by simp [Channel.free, Counters.zero, Counters.words]⟩

end Sys2Proof.Machine

/-! SUPPORT. How a served command ends: refused, answered, begun or held; and the commands that a channel field, a full
intake, a reset clear, another link's right or a running job stops before their owner does anything. -/

namespace Sys2Proof.Machine

/-! ### The end of a served command -/

theorem State.Serves.freePlace {s : State} {l : Link} {k : Fin 4} (h : s.Serves l k) :
    (s.port l).freePlace = some k := by
  obtain ⟨-, -, -, hfree⟩ := h
  exact hfree

/-- A served command is taken by its owner, and its entry is settled. -/
theorem exec_served {i : Instr} {l : Link} {k : Fin 4} {m : CmdMsg} {s : State} (hi : i.command = some (l, m))
    (hs : s.Serves l k) :
    exec i s = .next ((taking i l k m (s.received l k m)).1.settle l k m (taking i l k m (s.received l k m)).2) := by
  rw [exec_command hi, State.arrive_served hs]

/-- A command in a free place of a port that has just entered it is answered there. -/
theorem State.answer_received {u : State} {l : Link} {k : Fin 4} (h : (u.port l).freePlace = some k) (m : CmdMsg)
    (code : Code) (body : List Word) : (u.received l k m).answer l k code body = u.replies l k m code body := by
  simp only [State.answer, State.received, State.replies, State.updPort_updPort]
  simp only [State.updPort, LinkPort.answer_entered h]

theorem State.mark_received {u : State} {l : Link} {k : Fin 4} (h : (u.port l).freePlace = some k) (m : CmdMsg)
    (st : EntryState) : (u.received l k m).updPort l (·.markEntry k st) = u.updPort l (·.entered k m st) := by
  simp only [State.received, State.updPort_updPort]
  simp only [State.updPort, LinkPort.mark_entered h]

section
variable {i : Instr} {l : Link} {k : Fin 4} {m : CmdMsg} {s : State}

/-- A command whose owner completes it, changing anything but the intake of its link, is replied to. -/
theorem exec_done {u : State} {code : Code} {body : List Word} (hi : i.command = some (l, m)) (hs : s.Serves l k)
    (ht : taking i l k m (s.received l k m) = (u.received l k m, .done code body))
    (hu : (u.port l).freePlace = (s.port l).freePlace) : exec i s = .next (u.replies l k m code body) := by
  rw [exec_served hi hs, ht]
  exact congrArg _ (State.answer_received (hu.trans hs.freePlace) m code body)

/-- A refused command has no effect but its response. -/
theorem exec_refused {code : Code} (hi : i.command = some (l, m)) (hs : s.Serves l k)
    (ht : taking i l k m (s.received l k m) = refuse (s.received l k m) code) :
    exec i s = .next (s.replies l k m code []) :=
  exec_done hi hs ht rfl

/-- A command that starts an operation is IN_PROGRESS in its place. -/
theorem exec_started {u : State} (hi : i.command = some (l, m)) (hs : s.Serves l k)
    (ht : taking i l k m (s.received l k m) = (u.received l k m, .started))
    (hu : (u.port l).freePlace = (s.port l).freePlace) : exec i s = .next (u.begins l k m) := by
  rw [exec_served hi hs, ht]
  exact congrArg _ (State.mark_received (hu.trans hs.freePlace) m .inProgress)

/-- A command that is held waits in its place, the last of the held ones. -/
theorem exec_held (hi : i.command = some (l, m)) (hs : s.Serves l k)
    (ht : taking i l k m (s.received l k m) = (s.received l k m, .held)) : exec i s = .next (s.waits l k m) := by
  rw [exec_served hi hs, ht]
  rfl

end

/-! ### Channel fields that name no channel (R2) -/

theorem chanOf_eq_none {ch : ChanField} : chanOf ch = none ↔ 48 ≤ ch.toNat := by
  unfold chanOf
  split <;> simp <;> omega

theorem withChan_bad {m : CmdMsg} (h : 48 ≤ m.chan.toNat) (s : State) (f : Chan → State × Reply) :
    withChan m s f = refuse s .badChannel := by
  rw [withChan, chanOf_eq_none.mpr h]

/-- The channel field of a command is one that its kind is refused for (R2). -/
def CmdMsg.badField (m : CmdMsg) : Prop :=
  match m.kind with
  | .nop => False
  | .deviceStatus | .linkConfig | .resetDevice => m.chan ≠ 63
  | .counters => 48 ≤ m.chan.toNat ∧ m.chan ≠ 63
  | _ => 48 ≤ m.chan.toNat

/-- A command with a bad channel field is refused by its owner, whatever the state. -/
theorem taking_badField {i : Instr} {l : Link} {m : CmdMsg} (hi : i.command = some (l, m)) (h : m.badField)
    (k : Fin 4) (s : State) : taking i l k m s = refuse s .badChannel := by
  cases i <;> simp only [Instr.command, Option.some.injEq, Prod.mk.injEq, reduceCtorEq] at hi
  all_goals obtain ⟨rfl, rfl⟩ := hi
  case nop => exact h.elim
  case deviceStatus => exact if_neg h
  case linkConfig => exact if_neg h
  case resetDevice => exact if_pos h
  case counters =>
    obtain ⟨hch, hne⟩ := h
    exact (if_neg hne).trans (withChan_bad hch s _)
  all_goals exact withChan_bad h s _

/-- DEVICE_STATUS alone is taken while a reset clear runs; with a bad channel field it is refused then too. -/
theorem arrive_deviceStatus_bad {i : Instr} {l : Link} {k : Fin 4} {m : CmdMsg} {s : State}
    (hi : i.command = some (l, m)) (hl : s.listens l = true) (hk : (s.port l).freePlace = some k)
    (hkind : m.kind = .deviceStatus) (hch : m.chan ≠ 63) : exec i s = .next (s.replies l k m .badChannel []) := by
  have hbad : m.badField := by rw [CmdMsg.badField, hkind]; exact hch
  rw [exec_command hi, State.arrive_eq hl hk, if_neg fun h => h.2 hkind, taking_badField hi hbad]
  exact congrArg _ (State.answer_received hk m _ _)

/-- A command that finds no free intake place is dropped, counted and reported (R136). -/
theorem State.arrive_full {s : State} {l : Link} (hpin : s.pin = false) (hup : (s.port l).state = .up)
    (hk : (s.port l).freePlace = none) (m : CmdMsg) (take : Taking) :
    s.arrive l m take = s.updPort l fun p =>
      { p.heard with commandsDropped := stick16 p.commandsDropped }.putNotice
        { chan := 63, body := .commandDropped m.kind m.chan m.tag } := by
  have hl : s.listens l = true := by simp [State.listens, hpin, hup]
  have hk' : ((s.updPort l LinkPort.heard).port l).freePlace = none := by rw [State.port_updPort]; exact hk
  unfold State.arrive
  simp only [hl, if_true, hk']
  simp [State.notify, State.isDown, State.updPort_updPort, hup]

theorem State.not_listens {s : State} {l : Link} (h : s.pin = true ∨ (s.port l).state ≠ .up) : s.listens l = false := by
  rcases h with h | h <;> simp [State.listens, h]

/-- Settles O3: the arrival's cases in their order, and the owner's refusal of a bad channel field. -/
theorem commandsBeforeTheirOwner : Obligations.CommandsBeforeTheirOwner := by
  intro i l m s hi
  have listens (hpin : s.pin = false) (hup : (s.port l).state = .up) : s.listens l = true := by
    simp [State.listens, hpin, hup]
  refine ⟨fun h => ?_, fun hpin hup hk => ?_, fun k hpin hup hk hclear hkind => ?_,
    fun k hpin hup hk hkind hch => arrive_deviceStatus_bad hi (listens hpin hup) hk hkind hch, fun k hs h => ?_⟩
  · rw [exec_command hi, State.arrive_deaf (State.not_listens h)]
  · rw [exec_command hi, State.arrive_full hpin hup hk]
  · have hmark : s.mark = true := by simpa [State.mark] using hclear
    rw [exec_command hi, State.arrive_eq (listens hpin hup) hk, if_pos ⟨hmark, hkind⟩]
  · exact exec_refused hi hs (taking_badField hi h k _)

/-! ### Commands that a running job holds, and the rights to the others (R107, R111) -/

theorem hasBit_eq_getLsbD (w : Word) (i : Nat) : hasBit w.toNat i = w.getLsbD i := by
  rw [hasBit, BitVec.getLsbD, Nat.testBit_eq_decide_div_mod_eq]
  exact (beq_eq_decide ..)

/-- A member of a set that is a field of a word is a bit of the word. -/
theorem hasBit_fieldAt (w : Word) {i len : Nat} (h : i < len) : hasBit (fieldAt w 0 len) i = w.getLsbD i := by
  have hbit := Nat.testBit_mod_two_pow w.toNat len i
  rw [decide_eq_true h, Bool.true_and, Nat.testBit_eq_decide_div_mod_eq] at hbit
  rw [hasBit, fieldAt, pow_zero, Nat.div_one, beq_eq_decide, hbit, BitVec.getLsbD]

theorem fieldAt_zero (w : Word) (len : Nat) : fieldAt w 0 len = w.toNat % 2 ^ len := by
  simp [fieldAt]

/-- The commands that wait for a running job of their channel: EQ_OPEN, EQ_CLOSE, EQ_SET, a CLEAR_TAPS naming EQ, and a
POKE of an EQ tap word (R107). -/
def CmdMsg.waitsForJob (m : CmdMsg) : Prop :=
  m.kind = .eqOpen ∨ m.kind = .eqClose ∨ m.kind = .eqSet ∨
    (m.kind = .clearTaps ∧ (m.payload.getD 0 0).getLsbD 2 = true) ∨
    (m.kind = .poke ∧ 224 ≤ (m.payload.getD 0 0).toNat % 65536 ∧ (m.payload.getD 0 0).toNat % 65536 ≤ 287)

theorem State.jobRuns_eq_true {s : State} {c : Chan} : s.jobRuns c = true ↔ ∃ j, s.engine = some j ∧ j.chan = c := by
  unfold State.jobRuns
  cases s.engine <;> simp

theorem State.jobRuns_eq_false {s : State} {c : Chan} : s.jobRuns c = false ↔ ∀ j, s.engine = some j → j.chan ≠ c := by
  rw [← Bool.not_eq_true, State.jobRuns_eq_true]
  simp

@[simp] theorem State.jobRuns_received (s : State) (l : Link) (k : Fin 4) (m : CmdMsg) (c : Chan) :
    (s.received l k m).jobRuns c = s.jobRuns c := rfl

/-- A CLEAR_TAPS is taken at once unless it names EQ and a job of its channel runs. -/
theorem takeClearTaps_on (l : Link) (k : Fin 4) (c : Chan) (tag : Tag) (ws : List Word) (s : State) :
    takeClearTaps l k (.on .clearTaps c tag ws) s =
      if (ws.getD 0 0).getLsbD 2 = true ∧ s.jobRuns c = true then (s, .held)
      else clearTapsNow l (.on .clearTaps c tag ws) s := by
  simp only [takeClearTaps, withChan_on, filterSet, CmdMsg.word, CmdMsg.on_payload, Nat.sub_self,
    hasBit_fieldAt _ (show 2 < 8 by decide), Bool.and_eq_true]

/-- A POKE is taken at once unless its index is an EQ tap word and a job of its channel runs. -/
theorem takePoke_on (l : Link) (k : Fin 4) (c : Chan) (tag : Tag) (ws : List Word) (s : State) :
    takePoke l k (.on .poke c tag ws) s =
      if (224 ≤ (ws.getD 0 0).toNat % 65536 ∧ (ws.getD 0 0).toNat % 65536 ≤ 287) ∧ s.jobRuns c = true then (s, .held)
      else pokeNow l (.on .poke c tag ws) s := by
  simp [takePoke, fieldAt_zero, CmdMsg.word]

/-- A command that waits for a running job of its channel is held. -/
theorem taking_held {i : Instr} {l : Link} {c : Chan} {tag : Tag} {kind : CmdKind} {ws : List Word} {s : State}
    (hi : i.command = some (l, .on kind c tag ws)) (hw : (CmdMsg.on kind c tag ws).waitsForJob) (hj :
        s.jobRuns c = true)
    (k : Fin 4) : taking i l k (.on kind c tag ws) s = (s, .held) := by
  rcases hw with h | h | h | ⟨h, hset⟩ | ⟨h, hindex⟩ <;> obtain rfl : kind = _ := h
  all_goals cases i <;> cases hi
  · exact (withChan_on ..).trans (if_pos hj)
  · exact (withChan_on ..).trans (if_pos hj)
  · exact (withChan_on ..).trans (if_pos hj)
  · exact (takeClearTaps_on l k ..).trans (if_pos ⟨hset, hj⟩)
  · exact (takePoke_on l k ..).trans (if_pos ⟨hindex, hj⟩)

/-- Settles O5. -/
theorem equalizerCommandsWaitForTheRunningJob : Obligations.EqualizerCommandsWaitForTheRunningJob := by
  intro i l k c tag kind ws j s hi hs hengine hj hw
  have hruns : (s.received l k (.on kind c tag ws)).jobRuns c = true := State.jobRuns_eq_true.mpr ⟨j, hengine, hj⟩
  exact exec_held hi hs (taking_held hi hw hruns k)

/-- The refusal of a holder command from a link that does not hold the channel. -/
def Channel.strangerCode (ch : Channel) : Code := if ch.state = .opening then .busy else .notHolder

theorem handoverRefusal_stranger {s : State} {c : Chan} {l : Link} (h : ¬ (s.chan c).HeldBy l) (n : Nat) :
    handoverRefusal s c l n = some (s.chan c).strangerCode := by
  unfold handoverRefusal Channel.strangerCode
  cases hst : (s.chan c).state <;> simp_all [Channel.HeldBy]

/-- The kinds of the holder commands (Table 30). -/
def holderKinds : List CmdKind :=
  [.setNear, .setFar, .setAdapt, .clearTaps, .setPlayout, .setLine, .setNotices, .setShadow, .handover,
    .eqOpen, .eqClose, .eqSet, .poke]

theorem asHolder_stranger {s : State} {c : Chan} {l : Link} (h : ¬ (s.chan c).HeldBy l) (kind : CmdKind) (tag : Tag)
    (ws : List Word) (f : Chan → State × Reply) :
    asHolder l (.on kind c tag ws) s f = refuse s (s.chan c).strangerCode :=
  asHolder_other h kind tag ws f

theorem takeHandover_stranger {s : State} {c : Chan} {l : Link} (h : ¬ (s.chan c).HeldBy l) (k : Fin 4) (tag : Tag)
    (ws : List Word) : takeHandover l k (.on .handover c tag ws) s = refuse s (s.chan c).strangerCode := by
  simp only [takeHandover, withChan_on, handoverRefusal_stranger h]

/-- A holder command that no running job holds is refused to a link without the right. -/
theorem taking_stranger {i : Instr} {l : Link} {c : Chan} {tag : Tag} {kind : CmdKind} {ws : List Word} {s : State}
    (hi : i.command = some (l, .on kind c tag ws)) (hkind : kind ∈ holderKinds) (h : ¬ (s.chan c).HeldBy l)
    (hj : (CmdMsg.on kind c tag ws).waitsForJob → ¬ s.jobRuns c = true) (k : Fin 4) :
    taking i l k (.on kind c tag ws) s = refuse s (s.chan c).strangerCode := by
  cases i <;> simp only [Instr.command, Option.some.injEq, Prod.mk.injEq, CmdMsg.on, CmdMsg.mk.injEq,
      reduceCtorEq] at hi
  all_goals obtain ⟨rfl, rfl, rfl, rfl, rfl⟩ := hi
  case openChannel | closeChannel | accept | decline | adopt | peek | status | counters | deviceStatus | watch | nop |
      linkConfig | resetDevice =>
    exact absurd hkind (by decide)
  case clearTaps w =>
    refine (takeClearTaps_on _ k c _ [w] s).trans ((if_neg fun hheld => ?_).trans (asHolder_stranger h _ _ _ _))
    exact hj (.inr (.inr (.inr (.inl ⟨rfl, hheld.1⟩)))) hheld.2
  case handover => exact takeHandover_stranger h k _ _
  case eqOpen => exact (withChan_on ..).trans ((if_neg (hj (.inl rfl))).trans (asHolder_stranger h _ _ _ _))
  case eqClose => exact (withChan_on ..).trans ((if_neg (hj (.inr (.inl rfl)))).trans (asHolder_stranger h _ _ _ _))
  case eqSet =>
    exact (withChan_on ..).trans ((if_neg (hj (.inr (.inr (.inl rfl))))).trans (asHolder_stranger h _ _ _ _))
  case poke w v =>
    refine (takePoke_on _ k c _ [w, v] s).trans ((if_neg fun hheld => ?_).trans (asHolder_stranger h _ _ _ _))
    exact hj (.inr (.inr (.inr (.inr ⟨rfl, hheld.1⟩)))) hheld.2
  all_goals exact asHolder_stranger h _ _ _ _

/-- Settles O4. -/
theorem holderCommandsFromOthersAreRefused : Obligations.HolderCommandsFromOthersAreRefused := by
  intro i l k c tag kind ws s hi hs h hj hkind
  have hfree (hw : (CmdMsg.on kind c tag ws).waitsForJob) :
      ¬ (s.received l k (.on kind c tag ws)).jobRuns c = true := by
    rw [State.jobRuns_received, Bool.not_eq_true, State.jobRuns_eq_false]
    exact hj hw
  exact exec_refused hi hs (taking_stranger (s := s.received l k _) hi hkind h hfree k)

/-! ### The completion of an operation (R136, R138) -/

/-- Entries of one list without repeated places are the same when their places are. -/
theorem Entry.eq_of_place {es : List Entry} (hn : (es.map Entry.place).Nodup) {x e : Entry} (hx : x ∈ es) (he : e ∈ es)
    (h : x.place = e.place) : x = e :=
  List.inj_on_of_nodup_map hn hx he h

/-- Settles O8: the entry in progress is found by its kind and channel, and its place names it alone. -/
theorem completionsAnswerTheirCommand : Obligations.CompletionsAnswerTheirCommand := by
  intro p kind ch code body hn
  refine ⟨fun e he => ?_, fun hnone => ?_⟩
  · have hmem := List.mem_of_find?_eq_some he
    have hprop := List.find?_some he
    simp only [Bool.and_eq_true, beq_iff_eq] at hprop
    obtain ⟨⟨hkind, hchan⟩, -⟩ := hprop
    have hat : p.entryAt e.place = some e := by
      cases hf : p.entryAt e.place with
      | none => exact absurd (List.find?_eq_none.mp hf e hmem) (by simp)
      | some x =>
        have hx := List.find?_some hf
        rw [Entry.eq_of_place hn (List.mem_of_find?_eq_some hf) hmem (by simpa using hx)]
    have hmark : (p.intake.map fun x => if x.place = e.place then { x with state := EntryState.answered } else x) =
        p.intake.map fun x => if x = e then { x with state := EntryState.answered } else x := by
      refine List.map_congr_left fun x hx => ?_
      have : x.place = e.place ↔ x = e := ⟨Entry.eq_of_place hn hx hmem, fun h => h ▸ rfl⟩
      simp only [this]
    rw [LinkPort.completes, he]
    simp only [LinkPort.answer, hat, LinkPort.markEntry, hmark, Entry.response, hkind, hchan]
  · have hno : p.inProgress kind ch = none := by
      refine List.find?_eq_none.mpr fun e he => ?_
      simpa [and_assoc] using hnone e he
    rw [LinkPort.completes, hno]

end Sys2Proof.Machine

/-! SUPPORT. The settings commands: SET_PLAYOUT, SET_LINE, SET_NOTICES, LINK_CONFIG, SET_ADAPT, SET_SHADOW and
CLEAR_TAPS; and NOP and DEVICE_STATUS. -/

namespace Sys2Proof.Machine

/-! ### Operands and fields -/

@[simp] theorem CmdMsg.word_one (kind : CmdKind) (ch : ChanField) (tag : Tag) (w : Word) (ws : List Word) :
    CmdMsg.word { kind := kind, chan := ch, tag := tag, payload := w :: ws } 1 = w := rfl

@[simp] theorem CmdMsg.word_on_one (kind : CmdKind) (c : Chan) (tag : Tag) (w : Word) (ws : List Word) :
    (CmdMsg.on kind c tag (w :: ws)).word 1 = w := rfl

@[simp] theorem CmdMsg.word_on_two (kind : CmdKind) (c : Chan) (tag : Tag) (w v : Word) (ws : List Word) :
    (CmdMsg.on kind c tag (w :: v :: ws)).word 2 = v := rfl

@[simp] theorem CmdMsg.word_on_three (kind : CmdKind) (c : Chan) (tag : Tag) (w v x : Word) (ws : List Word) :
    (CmdMsg.on kind c tag (w :: v :: x :: ws)).word 3 = x := rfl

@[simp] theorem CmdMsg.word_on_four (kind : CmdKind) (c : Chan) (tag : Tag) (w v x y : Word) (ws : List Word) :
    (CmdMsg.on kind c tag (w :: v :: x :: y :: ws)).word 4 = y := rfl

theorem clampNat_eq_max_min {lo hi : Nat} (h : lo ≤ hi) (n : Nat) : clampNat lo hi n = max lo (min hi n) := by
  unfold clampNat
  omega

theorem clampNat_zero (hi n : Nat) : clampNat 0 hi n = min hi n := by
  unfold clampNat
  omega

theorem place_mod (v lo len : Nat) : place (v % 2 ^ len) lo len = place v lo len := by
  rw [place, place, Nat.mod_mod]

theorem place_low (v len : Nat) : place v 0 len = BitVec.ofNat 32 (v % 2 ^ len) := by
  rw [place, pow_zero, Nat.mul_one]

/-- The top field of a word needs no cut. -/
theorem fieldAt_top (w : Word) {lo len : Nat} (h : lo + len = 32) : fieldAt w lo len = w.toNat / 2 ^ lo := by
  refine Nat.mod_eq_of_lt (Nat.div_lt_of_lt_mul ?_)
  rw [← pow_add, h]
  exact w.isLt

theorem sampleAt_eq_extractLsb' (w : Word) (lo : Nat) : sampleAt w lo = w.extractLsb' lo 16 := by
  rw [sampleAt, BitVec.extractLsb', Nat.shiftRight_eq_div_pow]

/-- The high half of a word, as a sample, is placed as the number it is. -/
theorem place_high_half (w : Word) : place (w.extractLsb' 16 16).toNat 16 16 = place (w.toNat / 65536) 16 16 := by
  rw [BitVec.extractLsb'_toNat, Nat.shiftRight_eq_div_pow, place_mod]

@[simp] theorem fillOf_code (f : Fill) : fillOf f.code = some f := by cases f <;> rfl
@[simp] theorem loopbackOf_code (lb : Loopback) : loopbackOf lb.code = some lb := by cases lb <;> rfl
@[simp] theorem gearOf_code (g : Gear) : gearOf g.code = some g := by cases g <;> rfl
@[simp] theorem eqModeOf_code (g : EqMode) : eqModeOf g.code = some g := by cases g <;> rfl

theorem fillOf_none {n : Nat} (h : 2 ≤ n) : fillOf n = none := by
  unfold fillOf
  split <;> first | omega | rfl

/-! ### SET_PLAYOUT, SET_LINE and SET_NOTICES (R42, R43, R146) -/

section
variable {l : Link} {c : Chan} {s : State} (h : (s.chan c).HeldBy l) (k : Fin 4) (tag : Tag) (w : Word)
include h

theorem takeSetPlayout_held {fill : Fill} (hf : w.toNat / 65536 % 4 = fill.code) :
    takeSetPlayout l k (.on .setPlayout c tag [w]) s =
      (s.updChan c fun ch =>
        { ch with play := { ch.play with
            startDepth := max 1 (min 12 (w.toNat % 256)), lowWater := min 15 (w.toNat / 256 % 256), fill := fill } },
       .done .ok [place (max 1 (min 12 (w.toNat % 256))) 0 8 ||| place (min 15 (w.toNat / 256 % 256)) 8 8
         ||| place fill.code 16 2]) := by
  have hfield : fillOf (fieldAt w 16 2) = some fill := (congrArg fillOf hf).trans (fillOf_code fill)
  simp only [takeSetPlayout, asHolder_held h, CmdMsg.word_on_one, hfield, clampNat_zero,
    clampNat_eq_max_min (show 1 ≤ 12 by decide), fieldAt_zero]
  rfl

theorem takeSetPlayout_bad (hf : 2 ≤ w.toNat / 65536 % 4) :
    takeSetPlayout l k (.on .setPlayout c tag [w]) s = refuse s .badValue := by
  have hfield : fillOf (fieldAt w 16 2) = none := fillOf_none hf
  simp only [takeSetPlayout, asHolder_held h, CmdMsg.word_on_one, hfield]

theorem takeSetLine_held {lb : Loopback} (hf : w.toNat % 4 = lb.code) :
    takeSetLine l k (.on .setLine c tag [w]) s =
      (s.updChan c fun ch => { ch with loopback := lb, idle := w.extractLsb' 16 16 },
       .done .ok [place lb.code 0 2 ||| place (w.toNat / 65536) 16 16]) := by
  have hfield : loopbackOf (loopbackField w) = some lb := by
    rw [loopbackField, fieldAt_zero]
    exact (congrArg loopbackOf hf).trans (loopbackOf_code lb)
  simp only [takeSetLine, asHolder_held h, CmdMsg.word_on_one, hfield, lineWord, sampleAt_eq_extractLsb',
    place_high_half]

theorem takeSetLine_bad (hf : w.toNat % 4 = 3) :
    takeSetLine l k (.on .setLine c tag [w]) s = refuse s .badValue := by
  simp only [takeSetLine, asHolder_held h, CmdMsg.word_on_one, (loopbackOf_loopbackField_eq_none_iff w).mpr hf]

theorem takeSetNotices_held (hf : w.toNat % 256 < 64) :
    takeSetNotices l k (.on .setNotices c tag [w]) s =
      (s.updChan c fun ch => { ch with mask := w.setWidth 6 }, .done .ok [BitVec.ofNat 32 (w.toNat % 256)]) := by
  have hmask : BitVec.ofNat 6 (w.toNat % 256) = w.setWidth 6 := by
    apply BitVec.eq_of_toNat_eq
    simp only [BitVec.toNat_ofNat, BitVec.toNat_setWidth]
    omega
  simp only [takeSetNotices, asHolder_held h, CmdMsg.word_on_one, fieldAt_byte,
      if_neg (show ¬ 64 ≤ w.toNat % 256 by omega),
    hmask, place_low, Nat.mod_mod, show (2 : Nat) ^ 8 = 256 from rfl]

theorem takeSetNotices_bad (hf : 64 ≤ w.toNat % 256) :
    takeSetNotices l k (.on .setNotices c tag [w]) s = refuse s .badValue := by
  simp only [takeSetNotices, asHolder_held h, CmdMsg.word_on_one, fieldAt_byte, if_pos hf]

end

/-- Settles O18. -/
theorem settingsOfPlayoutLineAndNoticesAreStored : Obligations.SettingsOfPlayoutLineAndNoticesAreStored := by
  intro l k c tag w s ch depth low hs h
  exact
    ⟨fun fill hf => exec_done rfl hs (takeSetPlayout_held (s := s.received l k _) h k tag w hf) rfl,
      fun hf => exec_refused rfl hs (takeSetPlayout_bad (s := s.received l k _) h k tag w hf),
      fun lb hf => exec_done rfl hs (takeSetLine_held (s := s.received l k _) h k tag w hf) rfl,
      fun hf => exec_refused rfl hs (takeSetLine_bad (s := s.received l k _) h k tag w hf),
      fun hf => exec_done rfl hs (takeSetNotices_held (s := s.received l k _) h k tag w hf) rfl,
      fun hf => exec_refused rfl hs (takeSetNotices_bad (s := s.received l k _) h k tag w hf)⟩

/-! ### NOP, DEVICE_STATUS and LINK_CONFIG (R134, R137, R153) -/

/-- Settles O35. -/
theorem nopAndDeviceStatusAreAnswered : Obligations.NopAndDeviceStatusAreAnswered := by
  intro l k f tag ws s code
  refine ⟨fun hs => exec_done (u := s) rfl hs rfl rfl, fun hpin hup hk => ?_⟩
  have hl : s.listens l = true := by simp [State.listens, hpin, hup]
  rw [exec_command (i := .deviceStatus l 63 tag) rfl, State.arrive_eq hl hk, if_neg fun hm => hm.2 rfl]
  have hstate (i : Link) : ((s.received l k { kind := .deviceStatus, chan := 63, tag := tag, payload :=
      [] }).port i).state =
      (s.port i).state := by
    rw [State.received, State.port_updPort_ite]
    split
    · rename_i hi; subst hi; rfl
    · rfl
  have hcode (i : Link) : (s.port i).state.code = code i := by
    show _ = match (s.port i).state with | .down => 0 | .up => 1 | .outOfStep => 2
    cases (s.port i).state <;> rfl
  have htake : takeDeviceStatus l k { kind := .deviceStatus, chan := 63, tag := tag, payload := [] }
      (s.received l k { kind := .deviceStatus, chan := 63, tag := tag, payload := [] }) =
      (s.received l k { kind := .deviceStatus, chan := 63, tag := tag, payload := [] }, .done .ok
        [place s.freeList.length 0 8 ||| placeBit s.locked 8 ||| placeBit (decide (s.clear ≠ .none)) 9
              ||| place (code 0) 16 2 ||| place (code 1) 18 2 ||| place (code 2) 20 2 ||| place (code 3) 22 2,
            place s.echoUsed 0 16 ||| place s.eqUsed 16 16]) := by
    have hmark : (s.clear != .none) = decide (s.clear ≠ .none) := by cases s.clear <;> rfl
    simp only [takeDeviceStatus, if_true, State.deviceWords, hstate, hcode, State.mark]
    rw [← hmark]
    rfl
  show Host.Outcome.next ((takeDeviceStatus l k _ _).1.settle l k _ (takeDeviceStatus l k _ _).2) = _
  rw [htake]
  exact congrArg _ (State.answer_received hk _ _ _)

/-- A change of the port that commutes with the entry of a command can be made before it. -/
theorem State.updPort_received {g : LinkPort → LinkPort} {k : Fin 4} {m : CmdMsg}
    (hg : ∀ p : LinkPort, g (p.entered k m .waiting) = (g p).entered k m .waiting) (s : State) (l : Link) :
    (s.received l k m).updPort l g = (s.updPort l g).received l k m := by
  simp only [State.received, State.updPort_updPort]
  exact congrArg (s.setPort l) (hg _)

/-- Settles O48: the timer that LINK_CONFIG restarts is the one that the arrival has just restarted. -/
theorem linkConfigSetsTheSilenceTimer : Obligations.LinkConfigSetsTheSilenceTimer := by
  intro l k tag w s ms hs
  have hms : clampNat 0 255 (fieldAt w 0 16) = ms := by rw [clampNat_zero, fieldAt_zero]; rfl
  have hbody : place ms 0 16 = BitVec.ofNat 32 ms := by
    rw [place_low, Nat.mod_eq_of_lt (lt_of_le_of_lt (min_le_left _ _) (by decide))]
  have htake : takeLinkConfig l k { kind := .linkConfig, chan := 63, tag := tag, payload := [w] }
      (s.received l k { kind := .linkConfig, chan := 63, tag := tag, payload := [w] }) =
      ((s.updPort l (·.configure ms)).received l k { kind := .linkConfig, chan := 63, tag := tag, payload := [w] },
        .done .ok [BitVec.ofNat 32 ms]) := by
    rw [← State.updPort_received fun p => rfl]
    simp only [takeLinkConfig, if_true, CmdMsg.word_one, hms, hbody]
  rw [exec_done (i := .linkConfig l 63 tag w) rfl hs htake (by rw [State.port_updPort]; rfl)]
  simp only [State.replies, State.updPort_updPort]
  rfl

end Sys2Proof.Machine

/-! SUPPORT. SET_ADAPT, CLEAR_TAPS, SET_NEAR and SET_SHADOW from the holder. -/

namespace Sys2Proof.Machine

/-! ### SET_ADAPT (R61, R62, R63) -/

theorem adaptHas_on (c : Chan) (tag : Tag) (w : Word) (ws : List Word) (i : Nat) :
    adaptHas (.on .setAdapt c tag (w :: ws)) i = w.getLsbD i :=
  hasBit_eq_getLsbD w i

theorem gearOf_isNone (n : Nat) : (gearOf n).isNone = decide (3 < n) := by
  match n with
  | 0 | 1 | 2 | 3 => rfl
  | n + 4 => simp [gearOf]

/-- The three low bits of a word are 0 where its rest by 8 is. -/
theorem mod_eight_eq_zero (w : Word) :
    w.toNat % 8 = 0 ↔ w.getLsbD 0 = false ∧ w.getLsbD 1 = false ∧ w.getLsbD 2 = false := by
  simp only [← hasBit_eq_getLsbD, hasBit, beq_eq_false_iff_ne]
  omega

/-- The operands that R62 refuses: no group, or a gear or a set member that does not exist in a present group. -/
def adaptRefused (w1 w2 w3 : Word) : Prop :=
  w1.toNat % 8 = 0 ∨ (w1.getLsbD 0 = true ∧ 3 < w2.toNat % 8) ∨ (w1.getLsbD 1 = true ∧ 3 < w3.toNat % 8) ∨
    (w1.getLsbD 2 = true ∧ 3 < w1.toNat / 16 % 16)

theorem adaptBad_on (c : Chan) (tag : Tag) (w1 w2 w3 w4 : Word) :
    adaptBad (.on .setAdapt c tag [w1, w2, w3, w4]) = true ↔ adaptRefused w1 w2 w3 := by
  have hset : fieldAt w1 4 4 = w1.toNat / 16 % 16 := rfl
  simp only [adaptBad, adaptHas_on, CmdMsg.word_on_one, CmdMsg.word_on_two, CmdMsg.word_on_three, gearOf_isNone,
    fieldAt_zero, hset, adaptRefused, mod_eight_eq_zero, Bool.or_eq_true, Bool.and_eq_true, Bool.not_eq_true',
    Bool.or_eq_false_iff, decide_eq_true_eq]
  simp only [and_assoc, or_assoc]
  rfl

/-- The exponents of a group word made effective. -/
def groupExponent (n : Nat) : Nat := max 12 (min 30 n)

/-- A filter with the settings of a group word whose gear exists (R63). -/
def Filter.regrouped (f : Filter) (w : Word) : Filter :=
  { f with
    gear := if f.taps = [] then .off else
      match w.toNat % 8 with | 0 => .off | 1 => .train | 2 => .track | _ => .hold
    trainM := groupExponent (w.toNat / 256 % 256), trackM := groupExponent (w.toNat / 65536 % 256)
    leak := if w.toNat / 16777216 = 0 then 0 else groupExponent (w.toNat / 16777216) }

theorem Filter.adaptTo_eq (f : Filter) {w : Word} (h : w.toNat % 8 ≤ 3) : f.adaptTo w = f.regrouped w := by
  have hgear : (gearOf (fieldAt w 0 3)).getD .off =
      match w.toNat % 8 with | 0 => .off | 1 => .train | 2 => .track | _ => .hold := by
    rw [show fieldAt w 0 3 = w.toNat % 8 from fieldAt_zero w 3]
    revert h
    generalize w.toNat % 8 = n
    intro h
    interval_cases n <;> rfl
  have hstep (n : Nat) : effectiveStep n = groupExponent n := clampNat_eq_max_min (by decide) n
  have hleak (n : Nat) : effectiveLeak n = if n = 0 then 0 else groupExponent n := by rw [effectiveLeak, ← hstep]; rfl
  have htop : fieldAt w 24 8 = w.toNat / 16777216 := fieldAt_top w rfl
  have htrain : fieldAt w 8 8 = w.toNat / 256 % 256 := rfl
  have htrack : fieldAt w 16 8 = w.toNat / 65536 % 256 := rfl
  simp only [Filter.adaptTo, Filter.regrouped, hgear, hleak, hstep, htop, htrain, htrack, List.isEmpty_iff]

theorem clampNat_byte (n : Nat) (h : n < 256) : clampNat 1 255 n = max 1 n := by
  unfold clampNat
  omega

theorem fieldAt_lt (w : Word) (lo len : Nat) : fieldAt w lo len < 2 ^ len := Nat.mod_lt _ (Nat.two_pow_pos len)

/-- Settles O16. -/
theorem setAdaptReplacesThePresentGroups : Obligations.SetAdaptReplacesThePresentGroups := by
  intro l k c tag w1 w2 w3 w4 s ch m bad exponent group supervised new settings hs h
  have htake : takeSetAdapt l k m (s.received l k m) =
      if adaptBad m then refuse (s.received l k m) .badValue
      else ((s.received l k m).updChan c (·.adaptTo m), .done .ok (ch.adaptTo m).adaptBody) := by
    simp only [takeSetAdapt, m, asHolder_held (s := s.received l k _) h, State.chan_received, ch]
  refine ⟨fun hbad => exec_refused rfl hs (htake.trans (if_pos ((adaptBad_on ..).mpr hbad))), fun hok => ?_⟩
  have hnew : ch.adaptTo m = new := by
    have hnear : (if w1.getLsbD 0 = true then ch.near.adaptTo w2 else ch.near) =
        if w1.getLsbD 0 then group ch.near w2 else ch.near := by
      split
      · exact Filter.adaptTo_eq _ (by by_contra hgear; exact hok (.inr (.inl ⟨‹_›, by omega⟩)))
      · rfl
    have hfar : (if w1.getLsbD 1 = true then ch.far.adaptTo w3 else ch.far) =
        if w1.getLsbD 1 then group ch.far w3 else ch.far := by
      split
      · exact Filter.adaptTo_eq _ (by by_contra hgear; exact hok (.inr (.inr (.inl ⟨‹_›, by omega⟩))))
      · rfl
    have htop : fieldAt w1 24 8 = w1.toNat / 16777216 := fieldAt_top w1 rfl
    have hlast : w1.toNat / 16777216 < 256 := htop ▸ fieldAt_lt w1 24 8
    rw [Channel.adaptTo_eq]
    simp only [m, adaptHas_on, CmdMsg.word_on_one, CmdMsg.word_on_two, CmdMsg.word_on_three, CmdMsg.word_on_four,
      hasBit_eq_getLsbD, hnear, hfar, clampNat_eq_max_min (show 1 ≤ 15 by decide), clampNat_byte _ (fieldAt_lt w1 16 8),
      htop, clampNat_byte _ hlast]
    rfl
  rw [hnew, if_neg (mt (adaptBad_on ..).mp hok)] at htake
  refine exec_done rfl hs (htake.trans (Prod.ext ?_ rfl)) rfl
  exact congrArg ((s.received l k m).setChan c) hnew

/-! ### CLEAR_TAPS (R56, R57) -/

theorem Filter.zeroTaps_eq (f : Filter) : f.zeroTaps = { f with taps := f.taps.map fun _ => 0 } := by
  rw [Filter.zeroTaps, List.map_const']

/-- CLEAR_TAPS from the holder: the set is checked, and named filters are zeroed. -/
theorem clearTapsNow_held {s : State} {c : Chan} {l : Link} (h : (s.chan c).HeldBy l) (tag : Tag) (w : Word) :
    clearTapsNow l (.on .clearTaps c tag [w]) s =
      if w.toNat % 256 = 0 ∨ 8 ≤ w.toNat % 256 ∨ (w.getLsbD 2 = true ∧ (s.chan c).eq = none) then refuse s .badValue
      else (s.updChan c (·.clearTaps (filterSet w)), .done .ok [BitVec.ofNat 32 (w.toNat % 256)]) := by
  have hset : filterSet w = w.toNat % 256 := fieldAt_byte w
  have hbit : hasBit (filterSet w) 2 = w.getLsbD 2 := hasBit_fieldAt w (by decide)
  have hbody : place (filterSet w) 0 8 = BitVec.ofNat 32 (w.toNat % 256) := by rw [place_low, hset]; exact congrArg _ (Nat.mod_mod ..)
  simp only [clearTapsNow, asHolder_held h, CmdMsg.word_on_one, hbit, hbody, Bool.and_eq_true, Option.isNone_iff_eq_none]
  simp only [hset]
  by_cases h1 : w.toNat % 256 = 0 ∨ 8 ≤ w.toNat % 256
  · rw [if_pos h1, if_pos (h1.imp_right .inl)]
  · rw [if_neg h1]
    obtain ⟨h2, h3⟩ := not_or.mp h1
    simp only [h2, h3, false_or]

/-- Settles O17. -/
theorem clearTapsZeroesTheNamedFilters : Obligations.ClearTapsZeroesTheNamedFilters := by
  intro l k c tag w s ch m set bad hs h hjob
  have htake : takeClearTaps l k m (s.received l k m) =
      if bad then refuse (s.received l k m) .badValue
      else ((s.received l k m).updChan c (·.clearTaps (filterSet w)), .done .ok [BitVec.ofNat 32 set]) := by
    refine (takeClearTaps_on l k c tag [w] _).trans ((if_neg fun hheld => ?_).trans (clearTapsNow_held (s := s.received l k _) h tag w))
    exact absurd ((hjob hheld.1).symm.trans hheld.2) (by decide)
  refine ⟨fun hbad => exec_refused rfl hs (htake.trans (if_pos hbad)), fun hok => ?_⟩
  refine exec_done rfl hs ((htake.trans (if_neg hok)).trans (Prod.ext ?_ rfl)) rfl
  refine congrArg ((s.received l k m).setChan c) ?_
  have hbit (i : Nat) (hi : i < 8) : hasBit (filterSet w) i = w.getLsbD i := hasBit_fieldAt w hi
  simp only [Channel.clearTaps, hbit 0 (by decide), hbit 1 (by decide), hbit 2 (by decide), Filter.zeroTaps_eq]
  rfl

/-! ### SET_NEAR (R15) -/

theorem resizeTaps_eq (n : Nat) (ts : List Tap) : resizeTaps n ts = (List.range n).map fun i => ts.getD i 0 := by
  refine List.ext_getElem (by simp [length_resizeTaps]) fun i hi _ => ?_
  rw [length_resizeTaps] at hi
  simp only [resizeTaps, List.getElem_map, List.getElem_range, List.getElem_append, List.length_take, List.getElem_take,
    List.getElem_replicate, List.getD_eq_getElem?_getD]
  split
  · rw [List.getElem?_eq_getElem (by omega)]; rfl
  · rw [List.getElem?_eq_none (by omega)]; rfl

theorem Channel.chargeFor_eq (ch : Channel) (nn : Nat) :
    ch.chargeFor nn = nn + max ch.nf ((ch.retune.map Retune.nf).getD 0) := by
  unfold Channel.chargeFor
  cases ch.retune <;> simp

/-- Settles O14. -/
theorem setNearResizesTheNearFilter : Obligations.SetNearResizesTheNearFilter := by
  intro l k c tag w s ch m nn charge hs h
  have hnn : effectiveNear (fieldAt w 0 8) = nn := by rw [fieldAt_byte]; rfl
  have htake : takeSetNear l k m (s.received l k m) =
      if 6144 < s.echoUsed - ch.charge + charge then refuse (s.received l k m) .noBudget
      else (((s.received l k m).recharge c charge).updChan c (·.resizeNear nn),
        .done .ok [place nn 0 8 ||| place charge 16 16]) := by
    simp only [takeSetNear, m, asHolder_held (s := s.received l k _) h, State.chan_received, CmdMsg.word_on_one, hnn,
      Channel.chargeFor_eq]
    rfl
  refine ⟨fun hover => exec_refused rfl hs (htake.trans (if_pos hover)), fun hfits => ?_⟩
  have hnear : (fun x : Channel => x.resizeNear nn) { ch with charge := charge } =
      { ch with
        nn := nn, charge := charge
        near := { ch.near with
          taps := (List.range nn).map fun i => ch.near.taps.getD i 0
          gear := if nn = 0 then .off else if ch.nn = 0 then .train else ch.near.gear } } := by
    simp only [Channel.resizeNear, resizeTaps_eq, resizedGear]
  refine exec_done (u := (s.setChan c _).withPools (s.echoUsed - ch.charge + charge) s.freeList) rfl hs
    ((htake.trans (if_neg (by omega))).trans (Prod.ext ?_ rfl)) rfl
  simp only [State.recharge_eq, State.updChan_withPools, State.chan_setChan, State.setChan_setChan]
  exact congrArg (fun x => ((s.received l k m).setChan c x).withPools _ _) hnear

/-! ### SET_SHADOW (R84, R113) -/

theorem editQueue_eq (keep : Link → Bool) (q : List RxEntry) :
    editQueue keep q = (q.map fun e => { e with due := e.due.filter keep }).filter fun e => decide (e.due ≠ []) := by
  refine List.filter_congr fun e _ => ?_
  cases e.due <;> rfl

/-- An edit of the pending sets keeps the holder and the copy destination in them. -/
theorem Channel.editRx_eq (ch : Channel) :
    ch.editRx = { ch with
      rxq := (ch.rxq.map fun e =>
        { e with due := e.due.filter fun j => decide (ch.holder = some j ∨ ch.copy = some j) }).filter
          fun e => decide (e.due ≠ []) } := by
  have hkeep : (fun j => ch.holder == some j || ch.copy == some j) =
      fun j => decide (ch.holder = some j ∨ ch.copy = some j) := by
    funext j
    simp only [beq_eq_decide, Bool.decide_or]
  rw [Channel.editRx, editQueue_eq, hkeep]

theorem linkOf_val (i : Link) : linkOf i.val = some i := dif_pos i.isLt

theorem linkOf_eq_none {n : Nat} (h : 4 ≤ n) : linkOf n = none := dif_neg (by omega)

/-- The link that a link field with none names. -/
theorem linkOf_linkByte (i : Option Link) : linkOf (linkByte i) = i := by
  cases i with
  | none => rfl
  | some j => exact linkOf_val j

theorem State.isDown_received (s : State) (l : Link) (k : Fin 4) (m : CmdMsg) (i : Link) :
    (s.received l k m).isDown i = decide ((s.port i).state = .down) := by
  rw [State.isDown, State.received, State.port_updPort_ite]
  split
  · rename_i h; subst h; exact beq_eq_decide ..
  · exact beq_eq_decide ..

section
variable {s : State} {l : Link}

theorem shadowRefusal_badValue {n : Nat} (h : n = l.val ∨ (4 ≤ n ∧ n ≠ 255)) : shadowRefusal s l n = some .badValue := by
  have hl := l.isLt
  rcases h with rfl | ⟨h4, hne⟩
  · rw [shadowRefusal, if_neg (by omega), linkOf_val]
    exact if_pos rfl
  · rw [shadowRefusal, if_neg hne, linkOf_eq_none h4]

theorem shadowRefusal_linkDown {i : Link} (hne : i ≠ l) (hdown : s.isDown i = true) :
    shadowRefusal s l i.val = some .linkDown := by
  have hi := i.isLt
  rw [shadowRefusal, if_neg (by omega), linkOf_val]
  exact (if_neg hne).trans (if_pos hdown)

theorem shadowRefusal_ok {i : Option Link} (h : ∀ j, i = some j → j ≠ l ∧ s.isDown j = false) :
    shadowRefusal s l (linkByte i) = none := by
  cases i with
  | none => rfl
  | some j =>
    obtain ⟨hne, hup⟩ := h j rfl
    have hj := j.isLt
    rw [linkByte, shadowRefusal, if_neg (by omega), linkOf_val]
    exact (if_neg hne).trans (if_neg (by simp [hup]))

end

/-- The record after a SET_SHADOW, its saved shadow and copy destination written out. -/
theorem Channel.shadowTo_eq (ch : Channel) (i : Option Link) :
    ch.shadowTo i =
      { ch with
        copy := if ch.state = .handoverPending then ch.copy else i
        saved := if ch.state = .handoverPending then i else ch.saved
        rxq := if ch.state = .handoverPending then ch.rxq else
          (ch.rxq.map fun e => { e with due := e.due.filter fun j => decide (ch.holder = some j ∨
            (if ch.state = .handoverPending then ch.copy else i) = some j) }).filter fun e => decide (e.due ≠ []) } := by
  unfold Channel.shadowTo
  by_cases hp : ch.state = .handoverPending
  · simp only [hp, if_true]
  · simp only [if_neg hp, Channel.editRx_eq]

/-- Settles O19. -/
theorem setShadowNamesTheCopyDestination : Obligations.SetShadowNamesTheCopyDestination := by
  intro l k c tag w s ch m n hs h
  have htake : takeSetShadow l k m (s.received l k m) =
      match shadowRefusal (s.received l k m) l n with
      | some code => refuse (s.received l k m) code
      | none => ((s.received l k m).setChan c (ch.shadowTo (linkOf n)),
          .done .ok [place (linkByte (ch.shadowTo (linkOf n)).copy) 0 8
            ||| place (linkByte (ch.shadowTo (linkOf n)).saved) 8 8]) := by
    simp only [takeSetShadow, m, asHolder_held (s := s.received l k _) h, CmdMsg.word_on_one, fieldAt_byte]
    rfl
  have refused {code : Code} (hr : shadowRefusal (s.received l k m) l n = some code) :
      exec (.setShadow l (fieldOfChan c) tag w) s = .next (s.replies l k m code []) := by
    rw [hr] at htake
    exact exec_refused rfl hs htake
  refine ⟨fun hbad => refused (shadowRefusal_badValue hbad), fun i hn hne hdown => refused ?_,
    fun i hn hi => ?_⟩
  · rw [hn]
    exact shadowRefusal_linkDown hne (by rw [State.isDown_received, decide_eq_true hdown])
  · have hbyte : n = linkByte i := hn.trans (by cases i <;> rfl)
    have hok : shadowRefusal (s.received l k m) l n = none := by
      rw [hbyte]
      refine shadowRefusal_ok fun j hj => ⟨(hi j hj).1, ?_⟩
      rw [State.isDown_received, decide_eq_false (hi j hj).2]
    rw [hok, hbyte, linkOf_linkByte, Channel.shadowTo_eq] at htake
    exact exec_done rfl hs htake rfl

end Sys2Proof.Machine

/-! SUPPORT. What the operations on a port do while a command that has just arrived waits in its intake place: nothing to
the command, so that the state after a command is that of its effect with the command entered. -/

namespace Sys2Proof.Machine

/-! ### What a port does while a command waits in its place -/

/-- A change of a port that does not touch the intake place `k`, where a command has just entered. -/
structure LinkPort.Spares (k : Fin 4) (f : LinkPort → LinkPort) : Prop where
  entered : ∀ (p : LinkPort) (m : CmdMsg), p.freePlace = some k → f (p.entered k m .waiting) =
      (f p).entered k m .waiting
  freePlace : ∀ p : LinkPort, p.freePlace = some k → (f p).freePlace = some k

theorem LinkPort.putNotice_room {p : LinkPort} {n : Notice} (h : p.notices.length < Config.noticeDepth) :
    p.putNotice n = { p with notices := p.notices ++ [n] } := if_pos h

theorem LinkPort.putNotice_full {p : LinkPort} {n : Notice} (h : ¬ p.notices.length < Config.noticeDepth) :
    p.putNotice n = { p with lost := stick16 p.lost, noticesLost := stick16 p.noticesLost } := if_neg h

theorem LinkPort.told_of_down {p : LinkPort} {n : Notice} (h : p.state = .down) : p.told n = p := if_pos h

theorem LinkPort.told_of_not_down {p : LinkPort} {n : Notice} (h : p.state ≠ .down) : p.told n = p.putNotice n :=
    if_neg h

/-- Marking an entry leaves the places as they are. -/
theorem LinkPort.freePlace_markEntry (p : LinkPort) (k : Fin 4) (st : EntryState) :
    (p.markEntry k st).freePlace = p.freePlace := by
  refine congrArg (List.find? · allLinks) (funext fun i => ?_)
  simp only [LinkPort.markEntry, List.all_map]
  refine congrArg p.intake.all (funext fun e => ?_)
  simp only [Function.comp]
  split <;> rfl

theorem LinkPort.freePlace_answer (p : LinkPort) (k : Fin 4) (code : Code) (body : List Word) :
    (p.answer k code body).freePlace = p.freePlace := by
  unfold LinkPort.answer
  split
  · exact p.freePlace_markEntry k .answered
  · rfl

namespace LinkPort.Spares

variable {k : Fin 4} {f g : LinkPort → LinkPort}

theorem refl : Spares k id := ⟨fun _ _ _ => rfl, fun _ h => h⟩

theorem comp (hg : Spares k g) (hf : Spares k f) : Spares k fun p => g (f p) :=
  ⟨fun p m h => by rw [hf.entered p m h, hg.entered _ m (hf.freePlace p h)],
    fun p h => hg.freePlace _ (hf.freePlace p h)⟩

/-- A choice between two changes by something that the entry of a command leaves. -/
theorem ite {q : LinkPort → Prop} [∀ p, Decidable (q p)] (hq : ∀ p m, q (p.entered k m .waiting) ↔ q p)
    (hf : Spares k f) (hg : Spares k g) : Spares k fun p => if q p then f p else g p := by
  refine ⟨fun p m h => ?_, fun p h => ?_⟩
  · by_cases hp : q p
    · simp only [hq, hp, if_true, hf.entered p m h]
    · simp only [hq, hp, if_false, hg.entered p m h]
  · split
    exacts [hf.freePlace p h, hg.freePlace p h]

/-- A change that looks at the intake nowhere and leaves it. -/
theorem of_commutes (h : ∀ p m, f (p.entered k m .waiting) = (f p).entered k m .waiting)
    (hi : ∀ p, (f p).intake = p.intake) : Spares k f :=
  ⟨fun p m _ => h p m, fun p hp => by rw [LinkPort.freePlace, hi]; exact hp⟩

theorem putNotice (n : Notice) : Spares k (·.putNotice n) := by
  refine of_commutes (fun p m => ?_) fun p => by unfold LinkPort.putNotice; split <;> rfl
  by_cases h : p.notices.length < Config.noticeDepth
  · have h' : (p.entered k m .waiting).notices.length < Config.noticeDepth := h
    rw [putNotice_room h, putNotice_room h']
    rfl
  · have h' : ¬ (p.entered k m .waiting).notices.length < Config.noticeDepth := h
    rw [putNotice_full h, putNotice_full h']
    rfl

theorem told (n : Notice) : Spares k (·.told n) := by
  refine ⟨fun p m hk => ?_, fun p hk => ?_⟩ <;> by_cases h : p.state = .down
  · have h' : (p.entered k m .waiting).state = .down := h
    rw [told_of_down h, told_of_down h']
  · have h' : (p.entered k m .waiting).state ≠ .down := h
    rw [told_of_not_down h, told_of_not_down h', (putNotice n).entered p m hk]
  · rw [told_of_down h, hk]
  · rw [told_of_not_down h, (putNotice n).freePlace p hk]

theorem finishQueued (c : Chan) (st : EqStatus) (n : Nat) : Spares k (·.finishQueued c st n) :=
  of_commutes (fun _ _ => rfl) fun _ => rfl

/-- The completion of another operation of the port finds its entry past the waiting one. -/
theorem completes (kind : CmdKind) (ch : ChanField) (code : Code) (body : List Word) :
    Spares k (·.completes kind ch code body) := by
  have hfind (p : LinkPort) (m : CmdMsg) : (p.entered k m .waiting).inProgress kind ch = p.inProgress kind ch := by
    simp [LinkPort.inProgress, LinkPort.entered, List.find?_append]
  refine ⟨fun p m h => ?_, fun p h => ?_⟩
  · simp only [LinkPort.completes, hfind]
    cases he : p.inProgress kind ch with
    | none => rfl
    | some e =>
      have hmem : e ∈ p.intake := List.mem_of_find?_eq_some he
      have hne : k ≠ e.place := fun hk => LinkPort.place_free h e hmem hk.symm
      have hat : (p.entered k m .waiting).entryAt e.place = p.entryAt e.place := by
        simp [LinkPort.entryAt, LinkPort.entered, List.find?_append, hne]
      simp only [LinkPort.answer, hat]
      cases p.entryAt e.place with
      | none => rfl
      | some x =>
        simp only [LinkPort.markEntry, LinkPort.entered, List.map_append, List.map_cons, List.map_nil, if_neg hne]
        rfl
  · unfold LinkPort.completes
    split
    · rw [LinkPort.freePlace_answer, h]
    · exact h

end LinkPort.Spares

/-- A change of the port that spares the place of a command can be made before the command enters. -/
theorem State.updPort_received_spares {k : Fin 4} {f : LinkPort → LinkPort} (hf : LinkPort.Spares k f) {s : State}
    {l : Link} (h : (s.port l).freePlace = some k) (m : CmdMsg) (i : Link) :
    (s.received l k m).updPort i f = (s.updPort i f).received l k m := by
  refine State.SameButPorts.eq_of_ports (s := s) rfl rfl fun j => ?_
  simp only [State.received, State.port_updPort_ite]
  by_cases hj : j = i <;> by_cases hi : i = l <;> by_cases hl : j = l <;> simp_all [hf.entered]

theorem State.freePlace_updPort_spares {k : Fin 4} {f : LinkPort → LinkPort} (hf : LinkPort.Spares k f) {s : State}
    {l : Link} (h : (s.port l).freePlace = some k) (i : Link) : ((s.updPort i f).port l).freePlace = some k := by
  rw [State.port_updPort_ite]
  split
  · rename_i hi; subst hi; exact hf.freePlace _ h
  · exact h

end Sys2Proof.Machine

/-! SUPPORT. The life of a channel: OPEN, the context clear, SET_FAR and CLOSE, each as the state it leaves. -/

namespace Sys2Proof.Machine

/-! ### OPEN (R8, R19) -/

theorem loopbackField_eq (w : Word) : loopbackField w = w.toNat % 4 := by
  rw [loopbackField, fieldAt_zero]
  rfl

/-- An OPEN that no check refuses is taken with the slot and the loopback mode of its operands. -/
theorem takeOpen_taken {s : State} {c : Chan} {tag : Tag} {ws : List Word} {slot : Slot} {lb : Loopback}
    (hok : openRefusal s c (.on .openChannel c tag ws) = none)
    (hslot : ((CmdMsg.on .openChannel c tag ws).word 1).toNat % 256 = slot.val)
    (hlb : loopbackOf (((CmdMsg.on .openChannel c tag ws).word 3).toNat % 4) = some lb) (l : Link) (k : Fin 4) :
    takeOpen l k (.on .openChannel c tag ws) s = (s.openTaken l c (.on .openChannel c tag ws) slot lb, .started) := by
  have hfield : (if h : fieldAt ((CmdMsg.on .openChannel c tag ws).word 1) 0 8 < 64 then
      some (⟨fieldAt ((CmdMsg.on .openChannel c tag ws).word 1) 0 8, h⟩ : Slot) else none) = some slot := by
    simp only [fieldAt_byte, hslot]
    exact dif_pos slot.isLt
  simp only [takeOpen, withChan_on, hok, hfield, loopbackField_eq, hlb]

/-- Settles O11. -/
theorem openReservesAndStartsTheClear : Obligations.OpenReservesAndStartsTheClear := by
  intro l k c tag p slot lb s m z hs hfree hslot hlb hempty hbudget hpages
  have hlt := slot.isLt
  have hloop : (m.word 3).toNat % 4 ≠ 3 := fun h => by rw [h] at hlb; cases hlb
  have hvacant : s.slotMap.toList.getD slot.val none = none := by
    rw [List.getD_eq_getElem?_getD, List.getElem?_eq_getElem (by simp)]
    simpa using hempty
  have hok : openRefusal (s.received l k m) c m = none := by
    rw [openRefusal_received, openRefusal_eq, if_neg (by simpa using hfree), if_neg (by omega), hslot, hvacant,
      if_neg (by simp), if_neg (Nat.not_lt.mpr hbudget), if_neg (Nat.not_lt.mpr hpages)]
  have htake := takeOpen_taken hok hslot hlb l k
  rw [State.openTaken_eq] at htake
  exact exec_started (u := { s.setChan c (openedWith l m slot lb s.freeList) with
    slotMap := s.slotMap.set slot.val (some c), echoUsed := s.echoUsed + z.cost
    freeList := s.freeList.drop z.pageCount }) rfl hs htake rfl

/-! ### The context clear (R9, R10, R11, R69) -/

/-- The completion of an operation is one change of its link's port. -/
theorem State.answerOperation_eq (s : State) (l : Link) (kind : CmdKind) (ch : ChanField) (code : Code)
    (body : List Word) : s.answerOperation l kind ch code body = s.updPort l (·.completes kind ch code body) := by
  refine State.SameButPorts.eq_of_ports (s.answerOperation_sameButPorts ..) (s.sameButPorts_updPort ..) fun i => ?_
  rw [State.port_answerOperation, State.port_updPort_ite]
  split
  · rename_i h; rw [h]
  · rfl

theorem startGear_held (n : Nat) : (startGear n).held = if n = 0 then .off else .hold := by
  unfold startGear
  split <;> rfl

theorem State.mark_eq_false {s : State} : s.mark = false ↔ s.clear = .none := by
  simp [State.mark]

/-- Settles O12: the clear's two endings, with and without a holder. -/
theorem contextClearStartsTheCall : Obligations.ContextClearStartsTheCall := by
  constructor
  · intro c h s ch start ho hclear hh
    refine ⟨s.pool.zeroPages ch.pages, ?_, fun hwf a => Memory.read_zeroPages hwf _ _⟩
    show Host.Outcome.next (s.contextCleared c) = _
    rw [State.contextCleared_held ho (State.mark_eq_false.mpr hclear) hh, State.answerOperation_eq]
    have hrecord : (s.chan c).activated =
        { (s.chan c).activated with holder := some h } := by
      rw [← hh]; rfl
    rw [hrecord]
    rfl
  · intro c s ch start hold ho hclear hh
    refine ⟨_, rfl, ?_, fun i => ?_, fun hwf a => ?_⟩
    all_goals rw [State.contextCleared_lost ho (State.mark_eq_false.mpr hclear) hh]
    · have hsame := State.notifyEach_sameButPorts allLinks ((s.chan c).orphanStarted.orphanedNotice c none)
        ((s.withPool (s.pool.zeroPages (s.chan c).pages)).setChan c (s.chan c).orphanStarted)
      rw [← hsame]
      have hrecord : (s.chan c).orphanStarted = { (s.chan c).orphanStarted with
          holder := none
          near := { (s.chan c).orphanStarted.near with gear := hold ch.nn }
          far := { (s.chan c).orphanStarted.far with gear := hold ch.nf } } := by
        rw [← hh]
        show _ = { (s.chan c).orphanStarted with
          near := { (s.chan c).orphanStarted.near with gear := if ch.nn = 0 then .off else .hold }
          far := { (s.chan c).orphanStarted.far with gear := if ch.nf = 0 then .off else .hold } }
        rw [← startGear_held, ← startGear_held]
        rfl
      rw [hrecord]
      rfl
    · rw [State.port_notifyEach _ allLinks_nodup, if_pos (mem_allLinks i)]
      rfl
    · have hsame := State.notifyEach_sameButPorts allLinks ((s.chan c).orphanStarted.orphanedNotice c none)
        ((s.withPool (s.pool.zeroPages (s.chan c).pages)).setChan c (s.chan c).orphanStarted)
      rw [hsame.pool]
      exact Memory.read_zeroPages hwf _ _

/-! ### SET_FAR (R71, R72, R73) -/

/-- The answer to a pending retune's requester is one change of its link's port. -/
theorem State.answerRetune_eq (s : State) (c : Chan) (code : Code) (body : List Word) :
    s.answerRetune c code body = match (s.chan c).retune.bind Retune.requester with
      | some r => s.updPort r (·.completes .setFar (fieldOfChan c) code body)
      | none => s := by
  unfold State.answerRetune
  cases (s.chan c).retune with
  | none => rfl
  | some r =>
    cases hq : r.requester with
    | none => simp [hq]
    | some l => simp [hq, State.answerOperation_eq]

theorem Channel.reservedPages_eq (ch : Channel) : ch.reservedPages = (ch.retune.map Retune.reserved).getD 0 := by
  unfold Channel.reservedPages
  cases ch.retune <;> rfl

theorem farRequest_on (ch : Channel) (c : Chan) (tag : Tag) (w : Word) :
    ch.farRequest (.on .setFar c tag [w]) =
      { effectiveSizes 0 (w.toNat % 256) (w.toNat / 65536) with nn := ch.nn } := by
  rw [Channel.farRequest, CmdMsg.word_on_one, fieldAt_byte, fieldAt_top w rfl]
  rfl

/-- A command that waits in a free place does not stand in the way of an answer to a retune. -/
theorem State.answerRetune_received {s : State} {l : Link} {k : Fin 4} (h : (s.port l).freePlace = some k) (m : CmdMsg)
    (c : Chan) (code : Code) (body : List Word) :
    (s.received l k m).answerRetune c code body = (s.answerRetune c code body).received l k m := by
  simp only [State.answerRetune_eq, State.chan_received]
  cases (s.chan c).retune.bind Retune.requester with
  | none => rfl
  | some r => exact State.updPort_received_spares (LinkPort.Spares.completes ..) h m r

theorem State.freePlace_answerRetune {s : State} {l : Link} {k : Fin 4} (h : (s.port l).freePlace = some k) (c : Chan)
    (code : Code) (body : List Word) : ((s.answerRetune c code body).port l).freePlace = some k := by
  rw [State.answerRetune_eq]
  cases (s.chan c).retune.bind Retune.requester with
  | none => exact h
  | some r => exact State.freePlace_updPort_spares (LinkPort.Spares.completes ..) h r

/-- SET_FAR from the holder: the budget and the free pages are checked, and the retune is accepted. -/
theorem takeSetFar_held {s : State} {c : Chan} {l : Link} (h : (s.chan c).HeldBy l) (k : Fin 4) (tag : Tag) (w : Word)
    {z : Sizes} (hz : (s.chan c).farRequest (.on .setFar c tag [w]) = z) :
    takeSetFar l k (.on .setFar c tag [w]) s =
      match retuneRefusal s c z with
      | some code => refuse s code
      | none => (s.acceptRetune l c tag z, .started) := by
  simp only [takeSetFar, asHolder_held h, hz]
  rfl

theorem retuneRefusal_eq (s : State) (c : Chan) (z : Sizes) :
    retuneRefusal s c z =
      if 6144 < s.echoUsed - (s.chan c).charge + max ((s.chan c).nn + (s.chan c).nf) (z.nn + z.nf) then some .noBudget
      else if s.freeList.length + ((s.chan c).retune.map Retune.reserved).getD 0 <
        z.pageCount - ((s.chan c).pages.length - ((s.chan c).retune.map Retune.reserved).getD 0) then some .noHistory
      else none := by
  simp only [retuneRefusal, Channel.extraPages, Channel.servingPages_eq, Channel.reservedPages_eq]
  rfl

/-- Settles O15. -/
theorem setFarReservesItsRetune : Obligations.SetFarReservesItsRetune := by
  constructor
  · intro l k c tag w s ch z reserved serving extra charge free hs h hbudget hpages
    have hok : retuneRefusal (s.received l k (.on .setFar c tag [w])) c z = none := by
      rw [retuneRefusal_eq]
      exact (if_neg (Nat.not_lt.mpr hbudget)).trans (if_neg (Nat.not_lt.mpr hpages))
    have htake := takeSetFar_held (s := s.received l k (.on .setFar c tag [w])) (z := z) h k tag w (farRequest_on ..)
    rw [hok] at htake
    have hserving : ch.servingPages = serving := by rw [ch.servingPages_eq, ch.reservedPages_eq]
    have hextra : ch.extraPages z = extra := by rw [Channel.extraPages, hserving]
    have hrecord : ch.retuning l tag z s.freeList =
        { ch with
          pages := ch.pages.take serving ++ free.take extra, charge := charge
          retune := some { nf := z.nf, d := z.d, requester := some l, tag := tag, reserved := extra } } := by
      rw [Channel.retuning, hserving, hextra]
      rfl
    have hstate : (s.received l k (.on .setFar c tag [w])).acceptRetune l c tag z =
        (((s.answerRetune c .superseded []).setChan c (ch.retuning l tag z s.freeList)).withPools
          (s.echoUsed - ch.charge + charge) (free.drop extra)).received l k (.on .setFar c tag [w]) := by
      rw [State.acceptRetune_eq, State.answerRetune_received hs.freePlace]
      show State.withPools _ _ ((s.freeList ++ ch.pages.drop ch.servingPages).drop (ch.extraPages z)) = _
      rw [hserving, hextra]
      rfl
    have hplace := State.freePlace_answerRetune hs.freePlace c .superseded []
    refine (exec_started (i := .setFar l (fieldOfChan c) tag w) rfl hs
      (htake.trans (congrArg (·, Reply.started) hstate)) (hplace.trans hs.freePlace.symm)).trans ?_
    rw [hrecord, State.answerRetune_eq]
    rfl
  · intro l k c tag w s ch z reserved used hs h
    have htake := takeSetFar_held (s := s.received l k (.on .setFar c tag [w])) (z := z) h k tag w (farRequest_on ..)
    have refused {code : Code} (hr : retuneRefusal (s.received l k (.on .setFar c tag [w])) c z = some code) :
        exec (.setFar l (fieldOfChan c) tag w) s = .next (s.replies l k (.on .setFar c tag [w]) code []) := by
      rw [hr] at htake
      exact exec_refused rfl hs htake
    rw [retuneRefusal_eq] at refused
    exact ⟨fun hover => refused (if_pos hover),
      fun hfits hpages => refused ((if_neg (Nat.not_lt.mpr hfits)).trans (if_pos hpages))⟩

/-! ### CLOSE (R13, R14) -/

/-- The watches of a list of links on the channel end; every other port is as before. -/
theorem State.port_endWatches (ls : List Link) (hn : ls.Nodup) (c : Chan) (i : Link) (s : State) :
    (ls.foldl (State.endWatch c) s).port i =
      if i ∈ ls ∧ ((s.port i).watch.map Watch.chan) = some c then
        { s.port i with watch := none, watchData := none }.told { chan := fieldOfChan c, body := .watchEnded }
      else s.port i := by
  induction ls generalizing s with
  | nil => simp
  | cons l ls ih =>
    obtain ⟨hl, hn⟩ := List.nodup_cons.mp hn
    rw [List.foldl_cons, ih hn, State.port_endWatch]
    by_cases hi : i = l
    · subst hi; simp [hl]
    · simp [hi]

theorem State.endWatches_sameButPorts (c : Chan) (ls : List Link) (s : State) :
    s.SameButPorts (ls.foldl (State.endWatch c) s) := by
  induction ls generalizing s with
  | nil => exact .rfl' s
  | cons l ls ih => exact (s.endWatch_sameButPorts c l).trans (ih _)

/-- What a CLOSE of a channel with record `ch` does to the port of link `i`, its own response apart (R14): the answer to
a pending retune, the offer withdrawn, the watch ended, the results of the queued jobs. -/
def LinkPort.closing (ch : Channel) (c : Chan) (n : Nat) (i : Link) (p : LinkPort) : LinkPort :=
  let p := if (ch.retune.bind Retune.requester) = some i then p.completes .setFar (fieldOfChan c) .closed [] else p
  let p := if (ch.offer.map Offer.target) = some i then
    p.told { chan := fieldOfChan c, body := .offerWithdrawn .closed } else p
  let p := if (p.watch.map Watch.chan) = some c then
    { p with watch := none, watchData := none }.told { chan := fieldOfChan c, body := .watchEnded } else p
  p.finishQueued c .closed n

theorem LinkPort.closing_spares (ch : Channel) (c : Chan) (n : Nat) (i : Link) (k : Fin 4) :
    LinkPort.Spares k (LinkPort.closing ch c n i) := by
  have hwatch : LinkPort.Spares k fun p : LinkPort =>
      { p with watch := none, watchData := none }.told { chan := fieldOfChan c, body := .watchEnded } :=
    (LinkPort.Spares.told _).comp
      (.of_commutes (f := fun p => { p with watch := none, watchData := none }) (fun _ _ => rfl) fun _ => rfl)
  have hretune := LinkPort.Spares.ite (q := fun _ => (ch.retune.bind Retune.requester) = some i) (fun _ _ => .rfl)
    (LinkPort.Spares.completes (k := k) .setFar (fieldOfChan c) .closed []) .refl
  have hoffer := LinkPort.Spares.ite (q := fun _ => (ch.offer.map Offer.target) = some i) (fun _ _ => .rfl)
    (LinkPort.Spares.told (k := k) { chan := fieldOfChan c, body := .offerWithdrawn .closed }) .refl
  have hends := LinkPort.Spares.ite (q := fun p => (p.watch.map Watch.chan) = some c) (fun _ _ => .rfl) hwatch .refl
  exact (LinkPort.Spares.finishQueued c .closed n).comp (hends.comp (hoffer.comp hretune))

/-- The state before the record is freed: a CLOSE has changed ports alone. -/
def State.closingPorts (s : State) (c : Chan) : State :=
  allLinks.foldl (State.endWatch c) ((s.answerRetune c .closed []).withdrawOffer c .closed)

theorem State.closingPorts_same (s : State) (c : Chan) : s.SameButPorts (s.closingPorts c) :=
  ((s.answerRetune_sameButPorts c .closed []).trans (State.withdrawOffer_sameButPorts _ c .closed)).trans
    (State.endWatches_sameButPorts c allLinks _)

theorem State.closeTaken_eq (s : State) (c : Chan) :
    s.closeTaken c = ((s.closingPorts c).finishQueued c .closed).released c := by
  unfold State.closeTaken
  exact State.freeChannel_eq _ c

theorem State.port_released (s : State) (c : Chan) (i : Link) : (s.released c).port i = s.port i := rfl

theorem State.port_closeTaken (s : State) (c : Chan) (i : Link) :
    (s.closeTaken c).port i = (s.port i).closing (s.chan c) c s.freeCount i := by
  have hchan := (s.answerRetune_sameButPorts c .closed []).chan c
  rw [s.closeTaken_eq, State.port_released, State.port_finishQueued, (s.closingPorts_same c).freeCount]
  simp only [State.closingPorts, State.port_endWatches _ allLinks_nodup, mem_allLinks, true_and,
    State.port_withdrawOffer, hchan, State.port_answerRetune]
  rfl

/-- The freeing of a record, its slot, its pages, its charge and its EQ taps, apart from the ports. -/
theorem State.closeTaken_rest (s : State) (c : Chan) :
    { s.closeTaken c with links := s.links } = { s.released c with freeCount := s.freeCount + 1 } := by
  obtain ⟨ports, hports⟩ : ∃ ports, s.closingPorts c = { s with links := ports } := ⟨_, (s.closingPorts_same c).symm⟩
  rw [s.closeTaken_eq, hports]
  rfl

theorem Channel.closeRefusal_eq (ch : Channel) (l : Link) :
    ch.closeRefusal l = if ch.HeldBy l ∨ ch.state = .orphaned then none else some ch.strangerCode := by
  unfold Channel.closeRefusal Channel.strangerCode Channel.HeldBy
  cases hst : ch.state <;> simp

theorem takeClose_on (l : Link) (k : Fin 4) (c : Chan) (tag : Tag) (s : State) :
    takeClose l k (.on .closeChannel c tag []) s =
      if (s.chan c).HeldBy l ∨ (s.chan c).state = .orphaned then (s.closeTaken c, .done .ok [])
      else refuse s (s.chan c).strangerCode := by
  simp only [takeClose, withChan_on, Channel.closeRefusal_eq]
  by_cases h : (s.chan c).HeldBy l ∨ (s.chan c).state = .orphaned
  · simp only [if_pos h]
  · simp only [if_neg h]

/-- Settles O13: the ports one by one, and the rest of the state at once. -/
theorem closeFreesTheChannel : Obligations.CloseFreesTheChannel := by
  refine ⟨?_, fun l k c tag s hs hnot horphan => ?_⟩
  · intro l k c tag s ch hs hmay
    refine ⟨((s.received l k (.on .closeChannel c tag [])).closeTaken c).answer l k .ok [], ?_, ?_, fun i => ?_⟩
    · have htake := (takeClose_on l k c tag (s.received l k (.on .closeChannel c tag []))).trans (if_pos hmay)
      rw [exec_served (i := .closeChannel l (fieldOfChan c) tag) (m := .on .closeChannel c tag []) rfl hs]
      show Host.Outcome.next ((takeClose l k _ _).1.settle l k _ (takeClose l k _ _).2) = _
      rw [htake]
      rfl
    · have hrest := (s.received l k (.on .closeChannel c tag [])).closeTaken_rest c
      exact congrArg (fun t : State => { t with links := s.links }) hrest
    · have hport (j : Link) : ((s.received l k (.on .closeChannel c tag [])).closeTaken c).port j =
          LinkPort.closing ch c s.freeCount j ((s.received l k (.on .closeChannel c tag [])).port j) :=
        State.port_closeTaken _ c j
      rw [State.answer, State.port_updPort_ite]
      by_cases hi : i = l
      · subst hi
        have hspares := LinkPort.closing_spares ch c s.freeCount i k
        rw [if_pos rfl, hport, State.received, State.port_updPort, hspares.entered _ _ hs.freePlace,
          LinkPort.answer_entered (hspares.freePlace _ hs.freePlace)]
        exact (if_pos rfl).symm
      · rw [if_neg hi, hport, State.received, State.port_updPort_ne _ _ _ _ hi]
        exact (if_neg hi).symm
  · have hrefused : ¬ ((s.chan c).HeldBy l ∨ (s.chan c).state = .orphaned) := not_or.mpr ⟨hnot, horphan⟩
    exact exec_refused rfl hs ((takeClose_on l k c tag _).trans (if_neg hrefused))

end Sys2Proof.Machine

/-! SUPPORT. EQ contexts: EQ_OPEN, EQ_CLOSE and EQ_SET from the holder, with no job of the channel running. -/

namespace Sys2Proof.Machine

/-! ### EQ_OPEN (R91, R92) -/

theorem levelsOf_eq_none {n : Nat} (h : n ∉ [4, 16, 64, 256]) : levelsOf n = none := by
  simp only [List.mem_cons, List.not_mem_nil, or_false, not_or] at h
  obtain ⟨h4, h16, h64, h256⟩ := h
  unfold levelsOf
  split <;> first | contradiction | rfl

theorem levelsOf_square {lv : Nat} (h : lv ∈ [2, 4, 8, 16]) : levelsOf (lv * lv) = some lv := by
  simp only [List.mem_cons, List.not_mem_nil, or_false] at h
  rcases h with rfl | rfl | rfl | rfl <;> rfl

theorem eqModeOf_eq_none {n : Nat} (h : n = 0 ∨ 3 < n) : eqModeOf n = none := by
  unfold eqModeOf
  split <;> first | omega | rfl

/-- An EQ_OPEN's tap count, half-spacing and exponents as sent, the short form taking its own (R92). -/
def eqOpenSent : EqOpenPayload → Nat × Nat × Nat × Nat
  | .short _ => (16, 1024, 16, 20)
  | .long _ v w => (v.toNat % 256, w.toNat % 65536, v.toNat / 256 % 256, v.toNat / 65536 % 256)

theorem eqOpenFields_on (c : Chan) (tag : Tag) (p : EqOpenPayload) :
    eqOpenFields (.on .eqOpen c tag p.words) = eqOpenSent p := by
  cases p with
  | short w => exact if_pos (show 1 < 3 by decide)
  | long w1 w2 w3 =>
    simp only [eqOpenFields, EqOpenPayload.words, CmdMsg.word_on_two, CmdMsg.word_on_three, fieldAt_zero,
      eqOpenSent]
    rfl

/-- EQ_OPEN from the holder while no job of the channel runs: the request and the budget are checked. -/
theorem takeEqOpen_held {s : State} {c : Chan} {l : Link} (h : (s.chan c).HeldBy l) (hj : s.jobRuns c = false) (k :
    Fin 4)
    (tag : Tag) (ws : List Word) :
    takeEqOpen l k (.on .eqOpen c tag ws) s =
      match eqRequest (.on .eqOpen c tag ws) with
      | none => refuse s .badValue
      | some q =>
        if Config.eqBudget < s.eqUsed - (s.chan c).eqTaps + q.ne then refuse s .noEqSpace
        else
          ({ s.updChan c (fun ch => { ch with eq := some q }) with eqUsed := s.eqUsed - (s.chan c).eqTaps + q.ne },
           .done .ok q.openBody) := by
  simp only [takeEqOpen, withChan_on, hj, Bool.false_eq_true, if_false, eqOpenNow, asHolder_held h] <;> rfl

/-- Settles O24. -/
theorem eqOpenMakesAContext : Obligations.EqOpenMakesAContext := by
  intro l k c tag p s ch m points mode n ne tr tk spacing used hs h hj
  have htake := takeEqOpen_held (s := s.received l k m) h hj k tag p.words
  have hpoints : fieldAt (m.word 1) 0 9 = points := fieldAt_zero _ 9
  have hmode : fieldAt (m.word 1) 12 3 = mode := rfl
  constructor
  · intro hbad
    have hnone : eqRequest (.on .eqOpen c tag p.words) = none := by
      unfold eqRequest
      rw [hpoints, hmode]
      rcases hbad with hb | hb
      · rw [levelsOf_eq_none hb]
      · rw [eqModeOf_eq_none hb]
        cases levelsOf points <;> rfl
    rw [hnone] at htake
    exact exec_refused rfl hs htake
  · intro lv hlv g hp hg a
    have hsome : eqRequest (.on .eqOpen c tag p.words) =
        some { ne := ne, taps := unityTaps ne, line := List.replicate ne (0, 0), phase := false, lv := lv, a := a
               mode := g, resume := g, trainM := tr, trackM := tk, peps := 0 } := by
      have hspace : 1 ≤ 32767 / (lv - 1) := by
        simp only [List.mem_cons, List.not_mem_nil, or_false] at hlv
        rcases hlv with rfl | rfl | rfl | rfl <;> decide
      unfold eqRequest
      rw [hpoints, hmode, hp, hg, levelsOf_square hlv, eqModeOf_code]
      simp only [eqOpenFields_on, EqCtx.start, effectiveSpacing, effectiveStep, clampNat_eq_max_min hspace,
        clampNat_eq_max_min (show 12 ≤ 30 by decide)]
      cases p <;> rfl
    rw [hsome] at htake
    refine ⟨fun hover => exec_refused rfl hs (htake.trans (if_pos hover)), fun hfits => ?_⟩
    have hbody : place (lv * lv) 0 9 ||| place g.code 12 3 = place points 0 9 ||| place mode 12 3 := by rw [hp, hg]
    refine (exec_done (i := .eqOpen l (fieldOfChan c) tag p) (u := { s.setChan c { ch with eq := some _ } with
      eqUsed := used }) rfl hs (htake.trans (if_neg (Nat.not_lt.mpr hfits))) rfl).trans ?_
    rw [EqCtx.openBody, hbody]
    rfl

/-! ### EQ_CLOSE and EQ_SET (R93) -/

/-- A change of every port that spares the place of a command can be made before the command enters. -/
theorem State.updPorts_received_spares {k : Fin 4} {f : LinkPort → LinkPort} (hf : LinkPort.Spares k f) {s : State}
    {l : Link} (h : (s.port l).freePlace = some k) (m : CmdMsg) :
    (s.received l k m).updPorts f = (s.updPorts f).received l k m := by
  refine State.SameButPorts.eq_of_ports (s := s) rfl rfl fun j => ?_
  simp only [State.received, State.port_updPorts, State.port_updPort_ite]
  split
  · exact hf.entered _ m h
  · rfl

/-- EQ_CLOSE from the holder while no job of the channel runs. -/
theorem takeEqClose_held {s : State} {c : Chan} {l : Link} (h : (s.chan c).HeldBy l) (hj : s.jobRuns c = false) (k :
    Fin 4)
    (tag : Tag) :
    takeEqClose l k (.on .eqClose c tag []) s =
      if (s.chan c).eq = none then refuse s .badValue
      else ({ s.updChan c (fun ch => { ch with eq := none }) with eqUsed :=
          s.eqUsed - (s.chan c).eqTaps }.finishQueued c
        .noEq, .done .ok []) := by
  simp only [takeEqClose, withChan_on, hj, Bool.false_eq_true, if_false, eqCloseNow, asHolder_held h,
    Option.isNone_iff_eq_none]

theorem Channel.eqTaps_some {ch : Channel} {q : EqCtx} (h : ch.eq = some q) : ch.eqTaps = q.ne := by
  simp [Channel.eqTaps, h]

/-- Results made in one action join the ready list in some order. -/
theorem LinkPort.finishQueued_order (p : LinkPort) (c : Chan) (st : EqStatus) (n : Nat) :
    ∃ order : List (Fin 4),
      order.Perm ((p.jobs.filter fun j => decide (j.state = .queued ∧ j.chan = fieldOfChan c)).map Job.place) ∧
      p.finishQueued c st n =
        { p with
          jobs := p.jobs.map fun j => if decide (j.state = .queued ∧ j.chan = fieldOfChan c) then
            { j with state := .ready { status := st, outputs := [], peps := 0 } } else j
          ready := p.ready ++ order } := by
  have hmine : Job.queuedFor c = fun j => decide (j.state = .queued ∧ j.chan = fieldOfChan c) := by
    funext j
    simp only [Job.queuedFor, beq_eq_decide, Bool.decide_and]
  refine ⟨sortByKey (fun k : Fin 4 => Config.resultOrderKey n k.val) ((p.jobs.filter (Job.queuedFor c)).map Job.place),
    ?_, ?_⟩
  · rw [hmine]
    exact sortByKey_perm _ _
  · rw [LinkPort.finishQueued, hmine]
    rfl

/-- EQ_SET from the holder while no job of the channel runs. -/
theorem takeEqSet_held {s : State} {c : Chan} {l : Link} (h : (s.chan c).HeldBy l) (hj : s.jobRuns c = false) (k :
    Fin 4)
    (tag : Tag) (w : Word) :
    takeEqSet l k (.on .eqSet c tag [w]) s =
      match (s.chan c).eq, eqModeOf (w.toNat % 8) with
      | some q, some mode =>
        (s.updChan c fun ch => { ch with eq := some { q with
            mode := mode, trainM := max 12 (min 30 (w.toNat / 256 % 256)), trackM :=
                max 12 (min 30 (w.toNat / 65536 % 256)) } },
         .done .ok [place mode.code 0 3 ||| place (max 12 (min 30 (w.toNat / 256 % 256))) 8 8
           ||| place (max 12 (min 30 (w.toNat / 65536 % 256))) 16 8])
      | _, _ => refuse s .badValue := by
  simp only [takeEqSet, withChan_on, hj, Bool.false_eq_true, if_false, eqSetNow, asHolder_held h, CmdMsg.word_on_one,
    fieldAt_zero, effectiveStep, clampNat_eq_max_min (show 12 ≤ 30 by decide)]
  rfl

/-- Settles O25. -/
theorem eqCloseAndEqSetChangeTheContext : Obligations.EqCloseAndEqSetChangeTheContext := by
  refine ⟨?_, fun p c st n => p.finishQueued_order c st n, ?_⟩
  · intro l k c tag s ch m hs h hj
    have htake := takeEqClose_held (s := s.received l k m) h hj k tag
    refine ⟨fun hnone => exec_refused rfl hs (htake.trans (if_pos hnone)), fun q hq => ?_⟩
    have hspares := LinkPort.Spares.finishQueued (k := k) c .noEq s.freeCount
    have htaps : (s.chan c).eqTaps = q.ne := Channel.eqTaps_some hq
    have hports := State.updPorts_received_spares hspares hs.freePlace m
    have hsome : ¬ (s.chan c).eq = none := by
      intro hnone
      rw [show (s.chan c).eq = some q from hq] at hnone
      cases hnone
    have hstate : { ((s.received l k m).updPorts (·.finishQueued c .noEq s.freeCount)).setChan c { ch with eq :=
        none } with
          eqUsed := s.eqUsed - (s.chan c).eqTaps, freeCount := s.freeCount + 1 } =
        { (s.updPorts (·.finishQueued c .noEq s.freeCount)).setChan c { ch with eq := none } with
          eqUsed := s.eqUsed - q.ne, freeCount := s.freeCount + 1 }.received l k m := by
      rw [htaps, hports]
      rfl
    have hplace : (((s.updPorts (·.finishQueued c .noEq s.freeCount)).setChan c { ch with eq :=
        none }).port l).freePlace =
        (s.port l).freePlace := by
      rw [State.port_setChan, State.port_updPorts, hspares.freePlace _ hs.freePlace, hs.freePlace]
    exact exec_done (u := { (s.updPorts (·.finishQueued c .noEq s.freeCount)).setChan c { ch with eq := none } with
      eqUsed := s.eqUsed - q.ne, freeCount := s.freeCount + 1 }) rfl hs
      ((htake.trans (if_neg hsome)).trans (Prod.ext hstate rfl)) hplace
  · intro l k c tag w s ch m tr tk hs h hj
    have htake := takeEqSet_held (s := s.received l k m) h hj k tag w
    refine ⟨fun hbad => ?_, fun q hq g hg => ?_⟩
    · refine exec_refused rfl hs (htake.trans ?_)
      rcases hbad with hnone | hmode
      · rw [show ((s.received l k m).chan c).eq = none from hnone]
      · rw [eqModeOf_eq_none hmode]
        cases ((s.received l k m).chan c).eq <;> rfl
    · rw [show ((s.received l k m).chan c).eq = some q from hq, hg, eqModeOf_code] at htake
      exact exec_done rfl hs htake rfl

end Sys2Proof.Machine

/-! SUPPORT. Inspection: what the context words hold, and PEEK, POKE, WATCH, STATUS and COUNTERS. -/

namespace Sys2Proof.Machine

/-! ### The context words (R154, Tables 44 and 51) -/

theorem length_stateWords (ch : Channel) : ch.stateWords.length = 32 := by
  have heq : (eqWords ch.eq).length = 3 := by cases ch.eq <;> rfl
  simp [Channel.stateWords, heq]

/-- A list is what it holds at each of its places. -/
theorem map_range_getD {α : Type} (xs : List α) (a : α) : (List.range xs.length).map (xs.getD · a) = xs := by
  refine List.ext_getElem (by simp) fun i hi _ => ?_
  simp only [List.length_map, List.length_range] at hi
  simp [List.getElem?_eq_getElem hi]

theorem contextWord_state (ch : Channel) {i : Nat} (h : i < 32) : ch.contextWord i = ch.stateWords.getD i 0 := if_pos h

theorem contextWord_near (ch : Channel) {i : Nat} (h : i < 64) :
    ch.contextWord (32 + i) = (ch.near.taps.getD i 0).signExtend 32 := by
  rw [Channel.contextWord, if_neg (by omega), if_pos (by omega), Nat.add_sub_cancel_left]
  rfl

theorem contextWord_far (ch : Channel) {i : Nat} (h : i < 128) :
    ch.contextWord (96 + i) = (ch.far.taps.getD i 0).signExtend 32 := by
  rw [Channel.contextWord, if_neg (by omega), if_neg (by omega), if_pos (by omega), Nat.add_sub_cancel_left]
  rfl

theorem contextWord_eq (ch : Channel) {i : Nat} (h : i < 64) :
    ch.contextWord (224 + i) = match ch.eq with | some q => eqTapWord q i | none => 0 := by
  rw [Channel.contextWord, if_neg (by omega), if_neg (by omega), if_neg (by omega), if_pos (by omega),
    Nat.add_sub_cancel_left] <;> rfl

theorem contextWord_counter (ch : Channel) (i : Nat) : ch.contextWord (288 + i) = ch.cnt.words.getD i 0 := by
  rw [Channel.contextWord, if_neg (by omega), if_neg (by omega), if_neg (by omega), if_neg (by omega),
    Nat.add_sub_cancel_left]

theorem eqTapWord_real (q : EqCtx) (i : Nat) : eqTapWord q (2 * i) = (q.taps.getD i (0, 0)).1.signExtend 32 := by
  rw [eqTapWord, Nat.mul_div_cancel_left _ (by decide), List.getD_eq_getElem?_getD]
  cases q.taps[i]? with
  | none => rfl
  | some t => simp [tapWord]

theorem eqTapWord_imaginary (q : EqCtx) (i : Nat) :
    eqTapWord q (2 * i + 1) = (q.taps.getD i (0, 0)).2.signExtend 32 := by
  rw [eqTapWord, show (2 * i + 1) / 2 = i by omega, List.getD_eq_getElem?_getD]
  cases q.taps[i]? with
  | none => rfl
  | some t => simp [tapWord]

/-- The state words are context words 0 to 31. -/
theorem map_contextWord_state (ch : Channel) : (List.range 32).map ch.contextWord = ch.stateWords := by
  calc (List.range 32).map ch.contextWord
      = (List.range 32).map (ch.stateWords.getD · 0) :=
        List.map_congr_left fun i hi => contextWord_state ch (List.mem_range.mp hi)
    _ = (List.range ch.stateWords.length).map (ch.stateWords.getD · 0) := by rw [length_stateWords]
    _ = ch.stateWords := map_range_getD ..

/-- The counters are context words 288 to 299. -/
theorem map_contextWord_counters (ch : Channel) :
    ((List.range 12).map fun i => ch.contextWord (288 + i)) = ch.cnt.words := by
  calc ((List.range 12).map fun i => ch.contextWord (288 + i))
      = (List.range ch.cnt.words.length).map (ch.cnt.words.getD · 0) :=
        List.map_congr_left fun i _ => contextWord_counter ch i
    _ = ch.cnt.words := map_range_getD ..

/-- A word past the counters is 0. -/
theorem contextWord_past (ch : Channel) {i : Nat} (h : 300 ≤ i) : ch.contextWord i = 0 := by
  obtain ⟨j, rfl⟩ := Nat.exists_eq_add_of_le (show 288 ≤ i by omega)
  rw [contextWord_counter]
  exact List.getD_eq_default _ _ (show 12 ≤ j by omega)

/-- A number that fits its field is placed as it is. -/
theorem place_setWidth {n : Nat} (v : BitVec n) : place v.toNat 0 n = v.setWidth 32 := by
  rw [place_low, Nat.mod_eq_of_lt v.isLt, BitVec.ofNat_toNat]

theorem stateWord_two (ch : Channel) : ch.contextWord 2 =
    (ch.idle.setWidth 32 ||| place (ch.pages.length - ((ch.retune.map Retune.reserved).getD 0)) 16 8) := by
  rw [← ch.reservedPages_eq, ← ch.servingPages_eq, ← place_setWidth]
  rfl

theorem stateWord_playout (ch : Channel) : ch.contextWord 17 =
    (ch.play.e.setWidth 32 ||| placeBit (decide (ch.play.fill = .repeatLast)) 16 ||| placeBit ch.play.lastWasFill 17 |||
      placeBit ch.play.current.isSome 18 ||| place ch.play.readPos 24 8) := by
  have hfill : placeBit (decide (ch.play.fill = .repeatLast)) 16 = place ch.play.fill.code 16 1 := by
    cases ch.play.fill <;> rfl
  rw [hfill, ← place_setWidth]
  rfl

theorem stateWord_rx (ch : Channel) :
    ch.contextWord 18 = (ch.nextRx.setWidth 32 ||| place ch.rxq.length 16 8) := by
  rw [← place_setWidth]
  rfl

theorem stateWord_mask (ch : Channel) :
    ch.contextWord 19 = (ch.mask.setWidth 32 ||| place ch.flags.toNat 8 9) := by
  rw [← place_setWidth]
  rfl

/-- Words 20 to 22 are those of the EQ context. -/
theorem stateWord_eq (ch : Channel) {i : Nat} (h : i < 3) : ch.contextWord (20 + i) = (eqWords ch.eq).getD i 0 := by
  have hlen : (eqWords ch.eq).length = 3 := by cases ch.eq <;> rfl
  rw [contextWord_state ch (by omega), Channel.stateWords]
  simp only [List.getD_eq_getElem?_getD]
  rw [List.getElem?_append_left (by simp [hlen]; omega), List.getElem?_append_right (by simp)]
  simp

/-- Words 23 to 31 are 0. -/
theorem stateWord_unused (ch : Channel) {i : Nat} (h23 : 23 ≤ i) (h31 : i ≤ 31) : ch.contextWord i = 0 := by
  have hlen : (eqWords ch.eq).length = 3 := by cases ch.eq <;> rfl
  rw [contextWord_state ch (by omega), Channel.stateWords]
  simp only [List.getD_eq_getElem?_getD]
  rw [List.getElem?_append_right (by simp [hlen]; omega), List.getElem?_replicate]
  have hzero (q : Prop) [Decidable q] : (if q then some (0 : Word) else none).getD 0 = 0 := by split <;> rfl
  exact hzero _

/-! ### PEEK (R155) -/

/-- The aligned group of a burst begins at the start less its place in the group. -/
theorem burstIndexes_eq (start len : Nat) :
    burstIndexes start len = (List.range len).map fun i => start - start % len + (start % len + i) % len := by
  have hbase : start / len * len = start - start % len := by
    have := Nat.div_add_mod' start len
    omega
  rw [burstIndexes, hbase]

/-- The first word of the OK to PEEK, WATCH and POKE: fields side by side. -/
theorem place_or_place {a b la : Nat} (ha : a < 2 ^ la) {lb : Nat} (hb : b < 2 ^ lb) (h : la + lb ≤ 32) :
    (place a 0 la ||| place b la lb) = BitVec.ofNat 32 (a + 2 ^ la * b) := by
  have hsum : a + 2 ^ la * b < 2 ^ 32 := by
    calc a + 2 ^ la * b < 2 ^ la * (b + 1) := by rw [Nat.mul_add]; omega
      _ ≤ 2 ^ la * 2 ^ lb := Nat.mul_le_mul_left _ hb
      _ ≤ 2 ^ 32 := by rw [← pow_add]; exact Nat.pow_le_pow_right (by decide) h
  apply BitVec.eq_of_toNat_eq
  rw [BitVec.toNat_or, Laws.place_toNat _ _ _ (by omega), Laws.place_toNat _ _ _ h, BitVec.toNat_ofNat,
      Nat.mod_eq_of_lt hsum,
    Nat.mod_eq_of_lt ha, Nat.mod_eq_of_lt hb, pow_zero, Nat.mul_one, Nat.or_comm, Nat.mul_comm b, Nat.add_comm]
  exact (Nat.two_pow_add_eq_or_of_lt ha b).symm

theorem takePeek_on (l : Link) (k : Fin 4) (c : Chan) (tag : Tag) (w : Word) (s : State) :
    takePeek l k (.on .peek c tag [w]) s =
      if (s.chan c).state = .opening then refuse s .busy
      else if w.toNat / 65536 % 256 ∉ [1, 2, 4, 8] ∨ 303 < w.toNat % 65536 then refuse s .badValue
      else (s, .done .ok (BitVec.ofNat 32 (w.toNat % 65536 + 65536 * (w.toNat / 65536 % 256)) ::
        (burstIndexes (w.toNat % 65536) (w.toNat / 65536 % 256)).map (s.chan c).contextWord)) := by
  have hlen : fieldAt w 16 8 = w.toNat / 65536 % 256 := rfl
  have hword : place (w.toNat % 65536) 0 16 ||| place (w.toNat / 65536 % 256) 16 8 =
      BitVec.ofNat 32 (w.toNat % 65536 + 65536 * (w.toNat / 65536 % 256)) :=
    place_or_place (la := 16) (lb := 8) (by omega) (by omega) (by decide)
  simp only [takePeek, withChan_on, CmdMsg.word_on_one, fieldAt_zero, hlen, show (2 : Nat) ^ 16 = 65536 from rfl, hword,
    List.mem_cons, List.not_mem_nil, or_false]

/-- Settles O31: the burst, and what each context word holds. -/
theorem peekReadsABurstOfContextWords : Obligations.PeekReadsABurstOfContextWords := by
  refine ⟨?_, ?_, ?_⟩
  · intro l k c tag w s ch m start len hs
    have htake := takePeek_on l k c tag w (s.received l k m)
    refine ⟨fun ho => exec_refused rfl hs (htake.trans (if_pos ho)),
      fun ho hbad => exec_refused rfl hs (htake.trans ((if_neg ho).trans (if_pos hbad))), fun ho hlen hstart => ?_⟩
    have hgood : ¬ (w.toNat / 65536 % 256 ∉ [1, 2, 4, 8] ∨ 303 < w.toNat % 65536) :=
      not_or.mpr ⟨not_not.mpr hlen, Nat.not_lt.mpr hstart⟩
    rw [burstIndexes_eq, List.map_map] at htake
    exact exec_done rfl hs (htake.trans ((if_neg ho).trans (if_neg hgood))) rfl
  · intro ch
    refine ⟨fun i hi => contextWord_near ch hi, fun i hi => contextWord_far ch hi, fun i hi q hq => ⟨?_, ?_⟩,
      fun hq i hi => ?_, rfl, rfl, rfl, rfl, rfl, rfl, rfl, rfl, rfl, rfl, rfl, rfl, fun i hi => contextWord_past ch hi⟩
    · rw [contextWord_eq ch (by omega), hq]
      exact eqTapWord_real q i
    · rw [show 225 + 2 * i = 224 + (2 * i + 1) by omega, contextWord_eq ch (by omega), hq]
      exact eqTapWord_imaginary q i
    · rw [contextWord_eq ch hi, hq]
  · intro ch life link gear mode slot loop exponents p
    refine ⟨rfl, rfl, stateWord_two ch, rfl, rfl, rfl, rfl, rfl, rfl, rfl, rfl, rfl, rfl, rfl, rfl, rfl, rfl, rfl,
      stateWord_playout ch, stateWord_rx ch, stateWord_mask ch, fun q hq => ?_, fun hq => ?_,
      fun i h23 h31 => stateWord_unused ch h23 h31⟩
    all_goals
      have hwords (i : Nat) (h : i < 3) := stateWord_eq ch h
      rw [hq] at hwords
      exact ⟨hwords 0 (by decide), hwords 1 (by decide), hwords 2 (by decide)⟩

/-! ### POKE (R156, R157) -/

theorem clampTap_eq_max_min (x : Int) : clampTap x = max (-8388608) (min 8388607 x) :=
  saturate_eq_max_min (by decide) x

section
variable {ch : Channel} {i : Nat}

theorem pokeRefusal_readOnly (h : i ≤ 31 ∨ (288 ≤ i ∧ i ≤ 303)) : ch.pokeRefusal i = some .readOnly :=
  (if_neg (by omega)).trans (if_pos (by omega))

theorem pokeRefusal_badValue
    (h : 304 ≤ i ∨ (32 + ch.nn ≤ i ∧ 32 ≤ i ∧ i ≤ 95) ∨ (96 + ch.nf ≤ i ∧ 96 ≤ i ∧ i ≤ 223) ∨
      (224 + 2 * ch.eqTaps ≤ i ∧ 224 ≤ i ∧ i ≤ 287)) : ch.pokeRefusal i = some .badValue := by
  rcases h with h | ⟨h, hlo, hhi⟩ | ⟨h, hlo, hhi⟩ | ⟨h, hlo, hhi⟩
  · exact if_pos (by omega)
  · rw [Channel.pokeRefusal, if_neg (by omega), if_neg (by omega), if_pos (by omega), if_neg (by omega)]
  · rw [Channel.pokeRefusal, if_neg (by omega), if_neg (by omega), if_neg (by omega), if_pos (by omega),
        if_neg (by omega)]
  · rw [Channel.pokeRefusal, if_neg (by omega), if_neg (by omega), if_neg (by omega), if_neg (by omega)]
    cases hq : ch.eq with
    | none => rfl
    | some q =>
      rw [Channel.eqTaps_some hq] at h
      exact if_neg (by omega)

theorem pokeRefusal_near (hlo : 32 ≤ i) (hhi : i ≤ 95) (h : i < 32 + ch.nn) : ch.pokeRefusal i = none := by
  rw [Channel.pokeRefusal, if_neg (by omega), if_neg (by omega), if_pos (by omega), if_pos (by omega)]

theorem pokeRefusal_far (hlo : 96 ≤ i) (hhi : i ≤ 223) (h : i < 96 + ch.nf) : ch.pokeRefusal i = none := by
  rw [Channel.pokeRefusal, if_neg (by omega), if_neg (by omega), if_neg (by omega), if_pos (by omega),
      if_pos (by omega)]

theorem pokeRefusal_eq {q : EqCtx} (hq : ch.eq = some q) (hlo : 224 ≤ i) (hhi : i ≤ 287) (h : i < 224 + 2 * q.ne) :
    ch.pokeRefusal i = none := by
  rw [Channel.pokeRefusal, if_neg (by omega), if_neg (by omega), if_neg (by omega), if_neg (by omega), hq]
  exact if_pos (by omega)

theorem pokeTap_near (hhi : i ≤ 95) (v : Tap) :
    ch.pokeTap i v = { ch with near := { ch.near with taps := ch.near.taps.set (i - 32) v } } := if_pos (by omega)

theorem pokeTap_far (hlo : 96 ≤ i) (hhi : i ≤ 223) (v : Tap) :
    ch.pokeTap i v = { ch with far := { ch.far with taps := ch.far.taps.set (i - 96) v } } :=
  (if_neg (by omega)).trans (if_pos (by omega))

theorem pokeTap_eq {q : EqCtx} (hq : ch.eq = some q) (hlo : 224 ≤ i) (v : Tap) :
    ch.pokeTap i v = { ch with
      eq := some { q with taps := q.taps.modify ((i - 224) / 2) fun t => if i % 2 = 0 then
          (v, t.2) else (t.1, v) } } := by
  rw [Channel.pokeTap, if_neg (by omega), if_neg (by omega), hq]
  rfl

end

/-- POKE from the holder, where no running job holds it. -/
theorem takePoke_held {s : State} {c : Chan} {l : Link} (h : (s.chan c).HeldBy l) (w v : Word)
    (hj : 224 ≤ w.toNat % 65536 → w.toNat % 65536 ≤ 287 → s.jobRuns c = false) (k : Fin 4) (tag : Tag) :
    takePoke l k (.on .poke c tag [w, v]) s =
      match (s.chan c).pokeRefusal (w.toNat % 65536) with
      | some code => refuse s code
      | none =>
        (s.updChan c (·.pokeTap (w.toNat % 65536) (BitVec.ofInt 24 (max (-8388608) (min 8388607 v.toInt)))),
         .done .ok [BitVec.ofNat 32 (w.toNat % 65536), (s.chan c).contextWord (w.toNat % 65536),
           (BitVec.ofInt 24 (max (-8388608) (min 8388607 v.toInt)) : Tap).signExtend 32]) := by
  have hnow : ¬ ((224 ≤ w.toNat % 65536 ∧ w.toNat % 65536 ≤ 287) ∧ s.jobRuns c = true) := by
    rintro ⟨⟨hlo, hhi⟩, hruns⟩
    rw [hj hlo hhi] at hruns
    cases hruns
  have hindex : fieldAt w 0 16 = w.toNat % 65536 := fieldAt_zero w 16
  have hvalue : pokeValue (.on .poke c tag [w, v]) = BitVec.ofInt 24 (max (-8388608) (min 8388607 v.toInt)) := by
    rw [pokeValue, CmdMsg.word_on_two, clampTap_eq_max_min]
  have hplace : place (w.toNat % 65536) 0 16 = BitVec.ofNat 32 (w.toNat % 65536) := by
    rw [place_low]
    exact congrArg _ (Nat.mod_mod ..)
  rw [takePoke_on, if_neg (by exact hnow)]
  simp only [pokeNow, asHolder_held h, CmdMsg.word_on_one, hindex, hvalue, hplace]
  rfl

/-- Settles O32. -/
theorem pokeWritesOneTap : Obligations.PokeWritesOneTap := by
  intro l k c tag w v s ch m i tap body ne hs h hj
  have htake := takePoke_held (s := s.received l k m) h w v hj k tag
  have refused {code : Code} (hr : ch.pokeRefusal i = some code) :
      exec (.poke l (fieldOfChan c) tag w v) s = .next (s.replies l k m code []) := by
    rw [show ((s.received l k m).chan c).pokeRefusal (w.toNat % 65536) = some code from hr] at htake
    exact exec_refused rfl hs htake
  have written {x : Channel} (hr : ch.pokeRefusal i = none) (hx : ch.pokeTap i tap = x) :
      exec (.poke l (fieldOfChan c) tag w v) s = .next ((s.setChan c x).replies l k m .ok body) := by
    rw [show ((s.received l k m).chan c).pokeRefusal (w.toNat % 65536) = none from hr] at htake
    refine exec_done rfl hs (htake.trans (Prod.ext ?_ rfl)) rfl
    exact congrArg ((s.received l k m).setChan c) hx
  exact
    ⟨fun hro => refused (pokeRefusal_readOnly hro), fun hbad => refused (pokeRefusal_badValue hbad),
      fun hlo hhi hn => written (pokeRefusal_near hlo hhi hn) (pokeTap_near hhi tap),
      fun hlo hhi hn => written (pokeRefusal_far hlo hhi hn) (pokeTap_far hlo hhi tap),
      fun q hq hlo hhi hn => written (pokeRefusal_eq hq hlo hhi hn) (pokeTap_eq hq hlo tap)⟩

/-! ### WATCH (R158, R159) -/

theorem takeWatch_on (l : Link) (k : Fin 4) (c : Chan) (tag : Tag) (w : Word) (s : State) :
    takeWatch l k (.on .watch c tag [w]) s =
      if (s.chan c).state = .free then refuse s .badChannel
      else if (s.chan c).state = .opening then refuse s .busy
      else if 303 < w.toNat % 65536 then refuse s .badValue
      else
        (s.updPort l fun p => { p with
          watch := watchRecord c (w.toNat % 65536) (min 255 (w.toNat / 65536)), watchData := none },
         .done .ok [BitVec.ofNat 32 (w.toNat % 65536 + 65536 * min 255 (w.toNat / 65536))]) := by
  have hinterval : clampNat 0 255 (fieldAt w 16 16) = min 255 (w.toNat / 65536) := by
    rw [clampNat_zero, fieldAt_top w rfl]
    rfl
  have hindex : fieldAt w 0 16 = w.toNat % 65536 := fieldAt_zero w 16
  have hword : place (w.toNat % 65536) 0 16 ||| place (min 255 (w.toNat / 65536)) 16 16 =
      BitVec.ofNat 32 (w.toNat % 65536 + 65536 * min 255 (w.toNat / 65536)) :=
    place_or_place (la := 16) (lb := 16) (by omega) (by omega) (by decide)
  simp only [takeWatch, withChan_on, CmdMsg.word_on_one, hindex, hinterval, hword]

theorem LinkPort.watchStep_other {p : LinkPort} {c : Chan} (h : ∀ v, p.watch = some v → v.chan ≠ c) (ch : Channel)
    (seq : Seq) : p.watchStep c ch seq = p := by
  unfold LinkPort.watchStep
  cases hw : p.watch with
  | none => rfl
  | some v => exact if_neg (h v hw)

/-- Settles O33. -/
theorem watchSamplesAtBlockBoundaries : Obligations.WatchSamplesAtBlockBoundaries := by
  constructor
  · intro l k c tag w s ch m index interval hs
    have htake := takeWatch_on l k c tag w (s.received l k m)
    refine ⟨fun hf => exec_refused rfl hs (htake.trans (if_pos hf)), fun ho => exec_refused rfl hs (htake.trans ?_),
      fun hf ho hi => exec_refused rfl hs (htake.trans ((if_neg hf).trans ((if_neg ho).trans (if_pos hi)))),
      fun hf ho hi => ?_⟩
    · have hf : ((s.received l k m).chan c).state ≠ .free := by
        show ch.state ≠ .free
        rw [ho]
        nofun
      exact (if_neg hf).trans (if_pos ho)
    · have hset := State.updPort_received (k := k) (m := m)
        (g := fun p => { p with watch := watchRecord c index interval, watchData := none }) (fun _ => rfl) s l
      have hok := htake.trans ((if_neg hf).trans ((if_neg ho).trans (if_neg (Nat.not_lt.mpr hi))))
      exact exec_done rfl hs (hok.trans (Prod.ext hset rfl)) (by rw [State.port_updPort]; rfl)
  · intro c seq s i ch
    have hport : (s.watchStep c seq).port i = (s.port i).watchStep c ch seq := State.port_updPorts ..
    refine ⟨fun v hv hc hcount => ?_, fun v hv hc hcount => ?_, fun h => ?_⟩
    · rw [hport]
      simp only [LinkPort.watchStep, hv, if_pos hc, if_neg (Nat.not_le.mpr hcount)]
    · rw [hport]
      simp only [LinkPort.watchStep, hv, if_pos hc, hcount, le_refl, if_true]
      rw [Channel.watchSample, hc]
    · rw [hport, LinkPort.watchStep_other h]

/-! ### STATUS and COUNTERS (R150 to R152) -/

theorem word_one_toList (kind : CmdKind) (c : Chan) (tag : Tag) (w : Option Word) :
    (CmdMsg.on kind c tag w.toList).word 1 = w.getD 0 := by
  cases w <;> rfl

theorem statusRefusal_eq (ch : Channel) (l : Link) (set : Nat) :
    ch.statusRefusal l set =
      if 512 ≤ set then some .badValue
      else if set = 0 ∨ ch.state = .opening ∨ ch.HeldBy l then none
      else some .notHolder := by
  unfold Channel.statusRefusal Channel.HeldBy
  cases ch.state <;> split_ifs <;> simp_all

/-- A STATUS of a channel: the state words, and the named flags cleared. -/
theorem takeStatus_on (l : Link) (k : Fin 4) (c : Chan) (tag : Tag) (w : Option Word) (s : State) :
    takeStatus l k (.on .status c tag w.toList) s =
      match (s.chan c).statusRefusal l ((w.getD 0).toNat % 65536) with
      | some code => refuse s code
      | none => (s.updChan c (·.clearFlags ((w.getD 0).toNat % 65536)),
          .done .ok ((List.range 32).map (s.chan c).contextWord)) := by
  have hset : clearSet (.on .status c tag w.toList) = (w.getD 0).toNat % 65536 := by
    rw [clearSet, word_one_toList, fieldAt_zero]
    rfl
  simp only [takeStatus, withChan_on, hset, map_contextWord_state] <;> rfl

/-- An empty clear set, and any of an OPENING channel, clears nothing. -/
theorem clearFlags_none {ch : Channel} {set : Nat} (h : set = 0 ∨ ch.state = .opening) : ch.clearFlags set = ch := by
  unfold Channel.clearFlags
  rcases h with rfl | ho
  · split
    · rfl
    · have hflags : ch.flags &&& ~~~(BitVec.ofNat 9 0) = ch.flags := BitVec.and_allOnes
      rw [hflags]
  · exact if_pos ho

theorem countersRefusal_eq (ch : Channel) (l : Link) (clear : Bool) :
    ch.countersRefusal l clear =
      if ch.state = .opening then some .busy
      else if clear = true ∧ ¬ ch.HeldBy l then some .notHolder else none := by
  unfold Channel.countersRefusal Channel.HeldBy
  cases ch.state <;> cases clear <;> simp

/-- A COUNTERS of a channel: its counters, and their clear. -/
theorem takeCounters_on (l : Link) (k : Fin 4) (c : Chan) (tag : Tag) (w : Option Word) (s : State) :
    takeCounters l k (.on .counters c tag w.toList) s =
      match (s.chan c).countersRefusal l ((w.getD 0).getLsbD 0) with
      | some code => refuse s code
      | none =>
        (if (w.getD 0).getLsbD 0 then s.updChan c fun ch => { ch with cnt := Counters.zero } else s,
         .done .ok ((List.range 12).map fun i => (s.chan c).contextWord (288 + i))) := by
  have hne : fieldOfChan c ≠ 63 := by revert c; decide
  have hclear : clearOption (.on .counters c tag w.toList) = (w.getD 0).getLsbD 0 := by
    rw [clearOption, word_one_toList, hasBit_eq_getLsbD]
  simp only [takeCounters, CmdMsg.on_chan, if_neg hne, withChan_on, hclear, map_contextWord_counters] <;> rfl

/-- A COUNTERS with channel field 63: the sending link's counters, and their clear. -/
theorem exec_counters_link {s : State} {l : Link} {k : Fin 4} (hs : s.Serves l k) (tag : Tag) (w : Option Word) :
    exec (.counters l 63 tag w) s = .next
      ((s.updPort l fun p => if (w.getD 0).getLsbD 0 then p.clearCounters else p).replies l k
        { kind := .counters, chan := 63, tag := tag, payload := w.toList } .ok (s.port l).counterWords) := by
  have hclear : clearOption { kind := .counters, chan := 63, tag := tag, payload := w.toList } =
      (w.getD 0).getLsbD 0 := by
    rw [clearOption, ← hasBit_eq_getLsbD]
    cases w <;> rfl
  have hset := State.updPort_received (k := k) (m := { kind := .counters, chan := 63, tag := tag, payload := w.toList })
    (g := fun p => if (w.getD 0).getLsbD 0 then p.clearCounters else p) (fun p => by split <;> rfl) s l
  refine exec_done (i := .counters l 63 tag w) rfl hs ?_ ?_
  · have hport : ((s.received l k { kind := .counters, chan := 63, tag := tag, payload :=
        w.toList }).port l).counterWords =
        (s.port l).counterWords := by
      rw [State.received, State.port_updPort]
      rfl
    rw [← hset]
    show takeCounters l k _ _ = _
    simp only [takeCounters, if_true, hclear, hport]
    cases (w.getD 0).getLsbD 0 with
    | true => rfl
    | false => exact Prod.ext (State.setPort_port _ _).symm rfl
  · rw [State.port_updPort]
    split <;> rfl

/-- Settles O34. -/
theorem statusAndCountersReadAndClear : Obligations.StatusAndCountersReadAndClear := by
  constructor
  · intro l k c tag w s ch m set hs
    have htake := takeStatus_on l k c tag w (s.received l k m)
    rw [statusRefusal_eq] at htake
    refine ⟨fun hbad => ?_, fun hset hread => ?_, fun hset hne ho hnot => ?_, fun hset hheld => ?_⟩
    · rw [if_pos (by exact hbad)] at htake
      exact exec_refused rfl hs htake
    · rw [if_neg (by exact Nat.not_le.mpr hset), if_pos (by exact hread.imp_right .inl)] at htake
      refine exec_done (u := s) rfl hs (htake.trans (Prod.ext ?_ rfl)) rfl
      show (s.received l k m).setChan c (ch.clearFlags set) = s.received l k m
      rw [clearFlags_none hread]
      exact State.setChan_chan (s.received l k m) c
    · have hno : ¬ (set = 0 ∨ ch.state = .opening ∨ ch.HeldBy l) := not_or.mpr ⟨hne, not_or.mpr ⟨ho, hnot⟩⟩
      rw [if_neg (by exact Nat.not_le.mpr hset), if_neg (by exact hno)] at htake
      exact exec_refused rfl hs htake
    · rw [if_neg (by exact Nat.not_le.mpr hset), if_pos (by exact .inr (.inr hheld))] at htake
      refine exec_done rfl hs (htake.trans (Prod.ext ?_ rfl)) rfl
      exact congrArg ((s.received l k m).setChan c) (if_neg (Channel.HeldBy.not_opening hheld))
  · intro l k c tag w s ch p m clears hs
    have htake := takeCounters_on l k c tag w (s.received l k m)
    rw [countersRefusal_eq] at htake
    refine ⟨fun ho => ?_, fun ho hclears hnot => ?_, fun ho hkeep => ?_, fun hclears hheld => ?_, ?_⟩
    · rw [if_pos (by exact ho)] at htake
      exact exec_refused rfl hs htake
    · rw [if_neg (by exact ho), if_pos (by exact ⟨hclears, hnot⟩)] at htake
      exact exec_refused rfl hs htake
    · rw [if_neg (by exact ho), if_neg (by exact fun hc => hkeep hc.1)] at htake
      exact exec_done rfl hs (htake.trans (Prod.ext (if_neg hkeep) rfl)) rfl
    · rw [if_neg (by exact Channel.HeldBy.not_opening hheld), if_neg (by exact fun hc => hc.2 hheld)] at htake
      exact exec_done rfl hs (htake.trans (Prod.ext (if_pos hclears) rfl)) rfl
    · exact exec_counters_link hs tag w

end Sys2Proof.Machine

/-! SUPPORT. HANDOVER, ACCEPT, DECLINE, the expiry of an offer, and ADOPT. -/

namespace Sys2Proof.Machine

/-! ### Notices and pending sets as the statements write them -/

/-- A notice for one link is one change of its port. -/
theorem State.notify_eq (s : State) (l : Link) (n : Notice) : s.notify l n = s.updPort l (·.told n) := by
  refine State.SameButPorts.eq_of_ports (s.notify_sameButPorts l n) (s.sameButPorts_updPort l _) fun i => ?_
  rw [State.port_notify, State.port_updPort_ite]
  split
  · rename_i h; rw [h]
  · rfl

theorem State.notifyEach_toList (s : State) (o : Option Link) (n : Notice) :
    s.notifyEach o.toList n = match o with | some h => s.updPort h (·.told n) | none => s := by
  cases o with
  | none => rfl
  | some h => exact s.notify_eq h n

/-- An edit of the pending sets, by any test that keeps the holder and the copy destination. -/
theorem Channel.editRx_of {ch : Channel} {keep : Link → Bool}
    (h : ∀ j, keep j = decide (ch.holder = some j ∨ ch.copy = some j)) :
    ch.editRx = { ch with
      rxq := (ch.rxq.map fun e => { e with due := e.due.filter fun j => keep j }).filter fun e =>
          decide (e.due ≠ []) } := by
  rw [ch.editRx_eq, show (fun j => keep j) = fun j => decide (ch.holder = some j ∨ ch.copy = some j) from funext h]

theorem handoverRefusal_received (s : State) (l l' : Link) (k : Fin 4) (m : CmdMsg) (c : Chan) (n : Nat) :
    handoverRefusal (s.received l k m) c l' n = handoverRefusal s c l' n := by
  have hdown (i : Link) : (s.received l k m).isDown i = s.isDown i := by
    rw [State.isDown_received, State.isDown, beq_eq_decide]
  simp only [handoverRefusal, State.chan_received, hdown]

/-! ### HANDOVER (R117, R118) -/

theorem handoverRefusal_link {s : State} {l : Link} {n : Nat} :
    (match linkOf n with
      | some k => if k = l then some Code.badValue else if s.isDown k then some .linkDown else none
      | none => some .badValue) =
      if 3 < n ∨ n = l.val then some Code.badValue
      else if ∃ i : Link, n = i.val ∧ (s.port i).state = .down then some .linkDown else none := by
  by_cases hn : n < 4
  · obtain ⟨i, rfl⟩ : ∃ i : Link, i.val = n := ⟨⟨n, hn⟩, rfl⟩
    have hself : (3 < i.val ∨ i.val = l.val) ↔ i = l := by
      rw [Fin.ext_iff]
      omega
    have hdown : (∃ j : Link, i.val = j.val ∧ (s.port j).state = .down) ↔ s.isDown i = true := by
      rw [State.isDown, beq_iff_eq]
      exact ⟨fun ⟨j, hj, hd⟩ => Fin.ext hj ▸ hd, fun hd => ⟨i, rfl, hd⟩⟩
    rw [linkOf_val]
    simp only [hself, hdown]
  · rw [linkOf_eq_none (by omega), if_pos (.inl (by omega))]

/-- The checks of a HANDOVER in their order (R117). -/
theorem handoverRefusal_eq (s : State) (c : Chan) (l : Link) (n : Nat) :
    handoverRefusal s c l n =
      if (s.chan c).state = .opening then some Code.busy
      else if (s.chan c).state = .free ∨ (s.chan c).state = .orphaned ∨ (s.chan c).holder ≠ some l then some .notHolder
      else if (s.chan c).state = .handoverPending then some .busy
      else if 3 < n ∨ n = l.val then some .badValue
      else if ∃ i : Link, n = i.val ∧ (s.port i).state = .down then some .linkDown
      else none := by
  exact congrArg (fun last : Option Code => if (s.chan c).state = .opening then some Code.busy
      else if (s.chan c).state = .free ∨ (s.chan c).state = .orphaned ∨ (s.chan c).holder ≠ some l then some .notHolder
      else if (s.chan c).state = .handoverPending then some .busy
      else last) handoverRefusal_link

/-- The window that a HANDOVER's payload asks for. -/
def offerWindow : HandoverPayload → Nat
  | .target _ => 20
  | .window _ w => max 1 (min 255 (w.toNat % 65536))

theorem handoverWindow_on (c : Chan) (tag : Tag) (p : HandoverPayload) :
    handoverWindow (.on .handover c tag p.words) = offerWindow p := by
  cases p with
  | target w => rfl
  | window w v =>
    have hfield : fieldAt v 0 16 = v.toNat % 65536 := fieldAt_zero v 16
    show clampNat 1 255 (fieldAt v 0 16) = _
    rw [clampNat_eq_max_min (by decide), hfield]
    rfl

/-- A HANDOVER that no check refuses. -/
theorem takeHandover_taken {s : State} {c : Chan} {l i : Link} {tag : Tag} {p : HandoverPayload}
    (hok : handoverRefusal s c l i.val = none)
    (hn : ((CmdMsg.on .handover c tag p.words).word 1).toNat % 256 = i.val) (k : Fin 4) :
    takeHandover l k (.on .handover c tag p.words) s =
      ((s.updChan c (·.offerTo i (offerWindow p))).notify i ((s.chan c).offerNotice c (offerWindow p)),
       .done .ok [place i.val 0 8 ||| place (offerWindow p) 8 8]) := by
  simp only [takeHandover, withChan_on, fieldAt_byte, hn, linkOf_val, hok, handoverWindow_on]

/-- Settles O20. -/
theorem handoverOffersTheChannel : Obligations.HandoverOffersTheChannel := by
  constructor
  · intro l i k c tag p s ch m window hs hstate hh hn hne hup
    have hok : handoverRefusal (s.received l k m) c l i.val = none := by
      have hself : ¬ (3 < i.val ∨ i.val = l.val) := by
        have hval : i.val ≠ l.val := fun h => hne (Fin.ext h)
        omega
      have hdown : ¬ ∃ j : Link, i.val = j.val ∧ (s.port j).state = .down := fun ⟨j, hj, hd⟩ => hup (Fin.ext hj ▸ hd)
      have hheld : ¬ (ch.state = .free ∨ ch.state = .orphaned ∨ ch.holder ≠ some l) := by
        rw [hstate, hh]
        simp
      have hopen : ch.state ≠ .opening := by rw [hstate]; nofun
      have hpending : ch.state ≠ .handoverPending := by rw [hstate]; nofun
      rw [handoverRefusal_received, handoverRefusal_eq]
      exact (if_neg hopen).trans ((if_neg hheld).trans ((if_neg hpending).trans ((if_neg hself).trans (if_neg hdown))))
    have htake := takeHandover_taken hok hn k
    have hwindow : offerWindow p = window := by cases p <;> rfl
    have hrecord : ch.offerTo i window = { ch with
        state := .handoverPending, offer := some { target := i, window := window }, saved := ch.copy, copy := some i
        rxq := (ch.rxq.map fun e =>
          { e with due := e.due.filter fun j => decide (some j = some l ∨ some j = some i) }).filter
            fun e => decide (e.due ≠ []) } := by
      refine Channel.editRx_of fun j => decide_eq_decide.mpr ?_
      show _ ↔ ch.holder = some j ∨ some i = some j
      rw [hh, eq_comm, @eq_comm _ (some j)]
    have hnotice : ch.offerNotice c window =
        { chan := fieldOfChan c, body := .offer (some l) window ch.play.e ch.nextRx } := by
      rw [Channel.offerNotice, hh]
    have hspares := LinkPort.Spares.putNotice (k := k) (ch.offerNotice c window)
    have hplace := State.freePlace_updPort_spares hspares hs.freePlace i
    have hdown : ((s.received l k m).updChan c (·.offerTo i window)).isDown i = false := by
      show (s.received l k m).isDown i = false
      rw [State.isDown_received, decide_eq_false hup]
    have hstep : ((s.received l k m).updChan c (·.offerTo i window)).notify i (ch.offerNotice c window) =
        ((s.setChan c (ch.offerTo i window)).updPort i (·.putNotice (ch.offerNotice c window))).received l k m := by
      rw [State.notify, hdown]
      exact State.updPort_received_spares hspares (s := s.setChan c (ch.offerTo i window)) hs.freePlace m i
    rw [hwindow] at htake
    rw [← hrecord, ← hnotice]
    exact exec_done rfl hs (htake.trans (Prod.ext hstep rfl)) (hplace.trans hs.freePlace.symm)
  · intro l k c tag p s code ch m n hs hchecks
    have hrefused : handoverRefusal (s.received l k m) c l n = some code := by
      rw [handoverRefusal_received, handoverRefusal_eq]
      exact hchecks
    refine exec_refused (i := .handover l (fieldOfChan c) tag p) rfl hs ?_
    show takeHandover l k m _ = _
    simp only [takeHandover, m, withChan_on, fieldAt_byte]
    rw [hrefused]

/-! ### The offer's end by DECLINE and by expiry (R119, R121) -/

/-- The record after an offer has ended without a new holder. -/
theorem Channel.offerFailed_eq (ch : Channel) : ch.offerFailed = { ch with
    state := if ch.state = .handoverPending then .active else ch.state, offer := none, copy := ch.saved, saved := none
    rxq := (ch.rxq.map fun e =>
      { e with due := e.due.filter fun j => decide (ch.holder = some j ∨ ch.saved = some j) }).filter
        fun e => decide (e.due ≠ []) } := by
  unfold Channel.offerFailed
  rcases ch.endOffer.backToActive_cases with ⟨hs, hb⟩ | ⟨hs, hb⟩ <;> rw [hb, Channel.editRx_eq]
  · have hstate : ch.state = .handoverPending := hs
    rw [if_pos hstate]
    rfl
  · have hstate : ch.state ≠ .handoverPending := hs
    rw [if_neg hstate]
    rfl

theorem Channel.offeredTo_iff (ch : Channel) (l : Link) :
    ch.offeredTo l = true ↔ (ch.state = .handoverPending ∨ ch.state = .orphaned) ∧ ∃ o, ch.offer = some o ∧ o.target =
        l := by
  simp [Channel.offeredTo]

/-- An ACCEPT or a DECLINE of no standing offer to its sender is refused. -/
theorem offeredTo_none {ch : Channel} {l : Link} (h : ∀ o, ch.offer = some o → o.target ≠ l) :
    ¬ ch.offeredTo l = true :=
  fun hoff => by
    obtain ⟨-, o, ho, ht⟩ := (ch.offeredTo_iff l).mp hoff
    exact h o ho ht

theorem takeDecline_on (l : Link) (k : Fin 4) (c : Chan) (tag : Tag) (s : State) :
    takeDecline l k (.on .decline c tag []) s =
      if (s.chan c).offeredTo l = true then
        ((s.updChan c Channel.offerFailed).tellFailed c l .declined (s.chan c).holder, .done .ok [])
      else refuse s .notOffered := by
  simp only [takeDecline, withChan_on]

theorem takeAccept_on (l : Link) (k : Fin 4) (c : Chan) (tag : Tag) (s : State) :
    takeAccept l k (.on .accept c tag []) s =
      if (s.chan c).offeredTo l = true then
        (((s.dismissHolder c).setChan c ((s.chan c).acceptedBy l)).tellAccepted c l (s.chan c),
         .done .ok ((s.chan c).acceptedBy l).takeoverBody)
      else refuse s .notOffered := by
  simp only [takeAccept, withChan_on]

/-- A notice for the holder, if there is one. -/
def State.tellHolder (s : State) (h : Option Link) (n : Notice) : State :=
  match h with | some i => s.updPort i (·.told n) | none => s

theorem State.tellHolder_received {s : State} {l : Link} {k : Fin 4} (hk : (s.port l).freePlace = some k) (m : CmdMsg)
    (h : Option Link) (n : Notice) : (s.received l k m).tellHolder h n = (s.tellHolder h n).received l k m := by
  cases h with
  | none => rfl
  | some i => exact State.updPort_received_spares (.told n) hk m i

theorem State.freePlace_tellHolder {s : State} {l : Link} {k : Fin 4} (hk : (s.port l).freePlace = some k)
    (h : Option Link) (n : Notice) : ((s.tellHolder h n).port l).freePlace = some k := by
  cases h with
  | none => exact hk
  | some i => exact State.freePlace_updPort_spares (.told n) hk i

theorem State.tellFailed_eq (s : State) (c : Chan) (target : Link) (why : Reason) (h : Option Link) :
    s.tellFailed c target why h = s.tellHolder h { chan := fieldOfChan c, body := .handoverFailed target why } :=
  (s.notifyEach_toList h _).trans (by cases h <;> rfl)

/-- Settles O22. -/
theorem offersEndByDeclineAndExpiry : Obligations.OffersEndByDeclineAndExpiry := by
  constructor
  · intro l k c tag o s ch ended failed
    have hended : ch.offerFailed = ended := ch.offerFailed_eq
    refine ⟨fun hs ho ht hstate hother => ?_, fun ho hw hclear hother => ?_, fun hs hnone => ⟨?_, ?_⟩⟩
    · have hoff : ch.offeredTo l = true := (ch.offeredTo_iff l).mpr ⟨hstate, o, ho, ht⟩
      have htake := (takeDecline_on l k c tag (s.received l k (.on .decline c tag []))).trans (if_pos hoff)
      rw [State.tellFailed_eq] at htake
      have hstep := State.tellHolder_received (s := s.setChan c ended) hs.freePlace (.on .decline c tag []) ch.holder
        (failed .declined)
      have hstep' : ((s.received l k (.on .decline c tag [])).updChan c Channel.offerFailed).tellHolder ch.holder
          { chan := fieldOfChan c, body := .handoverFailed l .declined } =
          ((s.setChan c ended).tellHolder ch.holder (failed .declined)).received l k (.on .decline c tag []) := by
        rw [← hstep, ← hended, ← ht]
        rfl
      exact exec_done rfl hs (htake.trans (Prod.ext hstep' rfl))
        ((State.freePlace_tellHolder (s := s.setChan c ended) hs.freePlace ch.holder (failed .declined)).trans
          hs.freePlace.symm)
    · intro told
      have hexec : exec (.handoverExpiry c) s = .next (s.expireOffer c o) := by
        show execHandoverExpiry c s = _
        unfold execHandoverExpiry
        rw [show (s.chan c).offer = some o from ho]
        exact if_pos ⟨hw, State.mark_eq_false.mpr hclear⟩
      rw [hexec, State.expireOffer, State.tellFailed_eq, State.notify_eq]
      have hset : s.updChan c Channel.offerFailed = s.setChan c ended := congrArg (s.setChan c) hended
      rw [hset]
      exact congrArg Host.Outcome.next (by cases ch.holder <;> rfl)
    · exact exec_refused rfl hs ((takeDecline_on l k c tag _).trans (if_neg (offeredTo_none hnone)))
    · exact exec_refused rfl hs ((takeAccept_on l k c tag _).trans (if_neg (offeredTo_none hnone)))
  · intro c o s
    refine ⟨fun ho hclear => ⟨?_, fun hw => ?_⟩, fun hno => ⟨?_, ?_⟩⟩
    · show execHandoverTimerTick c s = _
      simp only [execHandoverTimerTick, ho, State.mark_eq_false.mpr hclear, Bool.false_eq_true, if_false]
      rfl
    · show execHandoverExpiry c s = _
      simp only [execHandoverExpiry, ho, hw, false_and, if_false]
    · show execHandoverTimerTick c s = _
      unfold execHandoverTimerTick
      rcases hno with hnone | hclear
      · rw [hnone]
      · have hmark : s.mark = true := by simpa [State.mark] using hclear
        cases (s.chan c).offer with
        | none => rfl
        | some o => exact if_pos hmark
    · show execHandoverExpiry c s = _
      unfold execHandoverExpiry
      rcases hno with hnone | hclear
      · rw [hnone]
      · have hmark : ¬ s.mark = false := by simpa [State.mark] using hclear
        cases (s.chan c).offer with
        | none => rfl
        | some o => exact if_neg fun h => hmark h.2

/-! ### ACCEPT and ADOPT (R116, R120) -/

theorem Filter.restore_eq (f : Filter) : f.restore = { f with gear := if f.taps = [] then .off else f.resume } := by
  simp only [Filter.restore, List.isEmpty_iff]

theorem othersThan_nodup (l : Link) : (othersThan l).Nodup := allLinks_nodup.filter _

theorem mem_othersThan {i l : Link} : i ∈ othersThan l ↔ i ≠ l := by
  simp [othersThan, mem_allLinks]

theorem State.port_notifyOthers (s : State) (l : Link) (n : Notice) (i : Link) :
    (s.notifyEach (othersThan l) n).port i = if i = l then s.port i else (s.port i).told n := by
  rw [State.port_notifyEach _ (othersThan_nodup l)]
  simp only [mem_othersThan, ite_not]

/-- The record of a channel that a link has taken over, its orphan hold still in force. -/
theorem Channel.heldAs_edit (ch : Channel) (l : Link) (copy saved : Option Link) :
    (ch.heldAs l copy saved).editRx = { ch with
      state := .active, holder := some l, copy := copy, saved := saved, offer := none
      rxq := (ch.rxq.map fun e => { e with due := e.due.filter fun j => decide (j = l ∨ copy = some j) }).filter
        fun e => decide (e.due ≠ []) } :=
  Channel.editRx_of (keep := fun j => decide (j = l ∨ copy = some j)) fun j => decide_eq_decide.mpr (by
    show _ ↔ some l = some j ∨ copy = some j
    rw [Option.some_inj, eq_comm])

/-- A served command that tells the other ports and leaves its own but for its entry. -/
theorem exec_announced {i : Instr} {l : Link} {k : Fin 4} {m : CmdMsg} {s u : State} {code : Code} {body : List Word}
    {f : Link → LinkPort} (hi : i.command = some (l, m)) (hs : s.Serves l k)
    (ht : taking i l k m (s.received l k m) = (u, .done code body))
    (hu : ∀ j, u.port j = if j = l then (s.received l k m).port j else f j) :
    ∃ t, exec i s = .next t ∧ { t with links := s.links } = { u with links := s.links } ∧
      ∀ j, t.port j = if j = l then (s.port j).replied k m code body else f j := by
  refine ⟨u.answer l k code body, ?_, rfl, fun j => ?_⟩
  · rw [exec_served hi hs, ht]
    rfl
  · rw [State.answer, State.port_updPort_ite]
    by_cases hj : j = l
    · subst hj
      rw [if_pos rfl, if_pos rfl, hu, if_pos rfl, State.received, State.port_updPort,
          LinkPort.answer_entered hs.freePlace]
    · rw [if_neg hj, if_neg hj, hu, if_neg hj]

theorem State.port_withdrawFor (s : State) (c : Chan) (l i : Link) :
    (s.withdrawFor c l).port i =
      if i ≠ l ∧ (s.chan c).offer.map Offer.target = some i then
        (s.port i).told { chan := fieldOfChan c, body := .offerWithdrawn .adopted }
      else s.port i := by
  unfold State.withdrawFor
  cases ho : (s.chan c).offer with
  | none => exact (if_neg (by simp)).symm
  | some o =>
    by_cases ht : o.target = l
    · have hself : ¬ (i ≠ l ∧ (some o).map Offer.target = some i) := fun ⟨hi, h⟩ =>
        hi ((Option.some_inj.mp h).symm.trans ht)
      show (if o.target = l then s else s.withdrawOffer c .adopted).port i = _
      rw [if_pos ht, if_neg hself]
    · show (if o.target = l then s else s.withdrawOffer c .adopted).port i = _
      rw [if_neg ht, State.port_withdrawOffer, ho]
      refine if_congr ?_ rfl rfl
      simp only [Option.map_some, Option.some_inj]
      exact ⟨fun h => ⟨h ▸ ht, h⟩, fun h => h.2⟩

/-- Two states that differ in their ports alone are the same with the same ports. -/
theorem State.SameButPorts.with_links {s t : State} (h : s.SameButPorts t) (ports : Vector LinkPort 4) :
    { t with links := ports } = { s with links := ports } := by
  rw [← h]

/-- Settles O21. -/
theorem acceptMakesTheTargetTheHolder : Obligations.AcceptMakesTheTargetTheHolder := by
  intro l k c tag o s ch m taken restored body hs ho ht
  have hrecord : (ch.heldAs l none none).editRx = taken := by
    rw [Channel.heldAs_edit]
    simp only [reduceCtorEq, or_false]
    rfl
  have htake (hstate : ch.state = .handoverPending ∨ ch.state = .orphaned) :=
    (takeAccept_on l k c tag (s.received l k m)).trans (if_pos ((ch.offeredTo_iff l).mpr ⟨hstate, o, ho, ht⟩))
  refine ⟨fun h hstate hh hne => ?_, fun hstate hh => ?_⟩
  · have hnot : ¬ ch.state = .orphaned := by rw [hstate]; nofun
    have hacc : ch.acceptedBy l = taken := (if_neg hnot).trans hrecord
    have hspares := (LinkPort.Spares.told (k := k) { chan := fieldOfChan c, body := .handoverDone l }).comp
      (LinkPort.Spares.finishQueued c .notHolder s.freeCount)
    have hstep := State.updPort_received_spares hspares
      (s := { s.setChan c taken with freeCount := s.freeCount + 1 }) hs.freePlace m h
    refine exec_done (u := { (s.setChan c taken).updPort h fun p =>
        (p.finishQueued c .notHolder s.freeCount).told { chan := fieldOfChan c, body := .handoverDone l } with
      freeCount := s.freeCount + 1 }) rfl hs ?_ ((State.freePlace_updPort_spares hspares hs.freePlace h).trans
        hs.freePlace.symm)
    have hmid : ((((s.received l k m).dismissHolder c).setChan c (ch.acceptedBy l)).tellAccepted c l ch) =
        ({ s.setChan c taken with freeCount := s.freeCount + 1 }.received l k m).updPort h fun p =>
          (p.finishQueued c .notHolder s.freeCount).told { chan := fieldOfChan c, body := .handoverDone l } := by
      have hd : (s.received l k m).dismissHolder c = (s.received l k m).finishQueuedOf h c .notHolder := by
        show (match ch.holder with
          | some h => (s.received l k m).finishQueuedOf h c .notHolder
          | none => s.received l k m) = _
        rw [hh]
      rw [hd, State.tellAccepted, if_neg hnot, State.notifyEach_toList, hh, hacc]
      exact State.updPort_updPort { (s.received l k m).setChan c taken with freeCount := s.freeCount + 1 } h
        (·.finishQueued c .notHolder s.freeCount) (·.told { chan := fieldOfChan c, body := .handoverDone l })
    exact (htake (.inl hstate)).trans (Prod.ext (hmid.trans hstep) (congrArg (fun r : Channel =>
      Reply.done .ok r.takeoverBody) hacc))
  · have hacc : ch.acceptedBy l = restored := by
      rw [Channel.acceptedBy_eq, if_pos hstate, hrecord, Channel.restoreGears, Filter.restore_eq, Filter.restore_eq]
    have hd : (s.received l k m).dismissHolder c = s.received l k m := by
      show (match ch.holder with
        | some h => (s.received l k m).finishQueuedOf h c .notHolder
        | none => s.received l k m) = _
      rw [hh]
    have hmid : (((s.received l k m).dismissHolder c).setChan c (ch.acceptedBy l)).tellAccepted c l ch =
        ((s.received l k m).setChan c restored).notifyEach (othersThan l)
          { chan := fieldOfChan c, body := .adopted l restored.gearsWord } := by
      rw [hd, State.tellAccepted, if_pos hstate, hacc]
    have hsame := State.notifyEach_sameButPorts (othersThan l)
      { chan := fieldOfChan c, body := .adopted l restored.gearsWord } ((s.received l k m).setChan c restored)
    obtain ⟨t, hexec, hrest, hports⟩ := exec_announced
      (f := fun i => (s.port i).told { chan := fieldOfChan c, body := .adopted l restored.gearsWord })
      (i := .accept l (fieldOfChan c) tag) (m := m) rfl hs
      ((htake (.inr hstate)).trans (Prod.ext hmid (congrArg (fun r : Channel => Reply.done .ok r.takeoverBody) hacc)))
      fun i => by
        refine (State.port_notifyOthers ..).trans ?_
        by_cases hi : i = l
        · rw [if_pos hi, if_pos hi, State.port_setChan]
        · rw [if_neg hi, if_neg hi, State.port_setChan, State.received, State.port_updPort_ne _ _ _ _ hi]
    exact ⟨t, hexec, hrest.trans (hsame.with_links s.links), hports⟩

/-- Settles O23. -/
theorem adoptTakesAnOrphanedChannel : Obligations.AdoptTakesAnOrphanedChannel := by
  intro l k c tag s ch m kept copy new hs
  refine ⟨fun hno => exec_refused rfl hs ?_, fun horphan => ?_⟩
  · show takeAdopt l k m _ = _
    simp only [takeAdopt, m, withChan_on]
    exact if_neg hno
  · have hcopy : ch.adoptedCopy l = copy := by
      show (if ch.shadow = some l then none else ch.shadow) = if kept = some l then none else kept
      have : ch.shadow = kept := by
        unfold Channel.shadow
        cases ho : ch.offer <;> simp [kept, ho]
      rw [this]
    have hsaved : (if ch.offer.isSome then none else ch.saved) = if ch.offer = none then ch.saved else none := by
      cases ch.offer <;> rfl
    have hnew : ch.adoptedBy l = new := by
      rw [Channel.adoptedBy_eq, Channel.heldAs_edit, hcopy, hsaved, Channel.restoreGears, Filter.restore_eq,
        Filter.restore_eq]
    have htake : takeAdopt l k m (s.received l k m) =
        ((s.received l k m).adoptTaken c l, .done .ok (new.takeoverBody)) := by
      rw [← hnew]
      simp only [takeAdopt, m, withChan_on]
      exact if_pos horphan
    obtain ⟨hwithdrawn, -⟩ := (s.received l k m).withdrawFor_same c l
    have htold := State.notifyEach_sameButPorts (othersThan l)
      { chan := fieldOfChan c, body := .adopted l new.gearsWord } (((s.received l k m).withdrawFor c l).setChan c new)
    have hadopt : (s.received l k m).adoptTaken c l =
        (((s.received l k m).withdrawFor c l).setChan c new).notifyEach (othersThan l)
          { chan := fieldOfChan c, body := .adopted l new.gearsWord } := by
      rw [← hnew]
      rfl
    obtain ⟨t, hexec, hrest, hports⟩ := exec_announced (i := .adopt l (fieldOfChan c) tag) (m := m)
      (f := fun i => (if (ch.offer.map Offer.target) = some i then
          (s.port i).told { chan := fieldOfChan c, body := .offerWithdrawn .adopted } else s.port i).told
            { chan := fieldOfChan c, body := .adopted l new.gearsWord }) rfl hs htake fun i => by
        rw [hadopt, State.port_notifyOthers, State.port_setChan, State.port_withdrawFor]
        by_cases hi : i = l
        · rw [if_pos hi, if_pos hi, if_neg fun h => h.1 hi]
        · rw [if_neg hi, if_neg hi, State.received, State.port_updPort_ne _ _ _ _ hi]
          simp only [ne_eq, hi, not_false_eq_true, true_and]
          rfl
    refine ⟨t, hexec, hrest.trans ?_, hports⟩
    rw [hadopt, htold.with_links s.links]
    exact congrArg (fun u : State => u.setChan c new) (hwithdrawn.with_links s.links)

end Sys2Proof.Machine

/-! SUPPORT. The notices that a channel's mask enables, and the steps that raise them: watermark edges, convergence and
divergence, and the rx queue. -/

namespace Sys2Proof.Machine

/-! ### A notice of the mask (R145) -/

/-- The recipients of a channel whose holder is not its copy destination are two links. -/
theorem Channel.recipients_nodup {ch : Channel} (h : ∀ l, ch.holder = some l → ch.copy ≠ some l) :
    ch.recipients.Nodup := by
  unfold Channel.recipients
  cases hh : ch.holder with
  | none => cases ch.copy <;> simp
  | some l =>
    cases hc : ch.copy with
    | none => simp
    | some i => simpa using fun hli : l = i => h l hh (hc.trans (congrArg some hli.symm))

theorem State.raise_disabled {s : State} {c : Chan} {k : MaskKind} (h : (s.chan c).mask.getLsbD k.index = false)
    (b : NoticeBody) : s.raise c k b = s :=
  if_neg (by rw [Channel.enabled, h]; nofun)

/-- A notice that the mask enables reaches the holder and the copy destination, and changes nothing else. -/
theorem State.raise_enabled {s : State} {c : Chan} {k : MaskKind}
    (hne : ∀ l, (s.chan c).holder = some l → (s.chan c).copy ≠ some l) (h : (s.chan c).mask.getLsbD k.index = true)
    (b : NoticeBody) :
    { s.raise c k b with links := s.links } = s ∧ ∀ i, (s.raise c k b).port i =
      if (s.chan c).holder = some i ∨ (s.chan c).copy = some i then (s.port i).told { chan := fieldOfChan c, body := b }
      else s.port i := by
  refine ⟨(s.raise_sameButPorts c k b).with_links s.links, fun i => ?_⟩
  have hen : (s.chan c).enabled k = true := h
  rw [State.port_raise s c k b i (Channel.recipients_nodup hne)]
  exact if_congr (by rw [Channel.mem_recipients]; exact ⟨And.right, And.intro hen⟩) rfl rfl

/-! ### Watermark edges (R40) -/

theorem State.watermark_fall {s : State} {c : Chan} {d0 : Nat} (h0 : (s.chan c).play.lowWater < d0)
    (h1 : (s.chan c).play.depth ≤ (s.chan c).play.lowWater) :
    s.watermark c d0 = s.raise c .playoutLow (.playoutLow (s.chan c).play.depth (s.chan c).play.lowWater) :=
  if_pos ⟨h0, h1⟩

theorem State.watermark_rise {s : State} {c : Chan} {d0 : Nat} (h0 : d0 ≤ (s.chan c).play.lowWater)
    (h1 : (s.chan c).play.lowWater < (s.chan c).play.depth) :
    s.watermark c d0 = s.raise c .playoutRecovered (.playoutRecovered (s.chan c).play.depth (s.chan c).play.lowWater) :=
  (if_neg fun h => by omega).trans (if_pos ⟨h0, h1⟩)

theorem State.watermark_level {s : State} {c : Chan} {d0 : Nat}
    (h : d0 ≤ (s.chan c).play.lowWater ↔ (s.chan c).play.depth ≤ (s.chan c).play.lowWater) : s.watermark c d0 = s :=
  (if_neg fun hf => by omega).trans (if_neg fun hr => by omega)

/-- Settles O37: the depth falls to the low watermark, rises above it, or stays on its side. -/
theorem watermarkEdgesAreTold : Obligations.WatermarkEdgesAreTold := by
  intro c before s ch w now tell hne
  refine ⟨fun h0 h1 hm => ?_, fun h0 h1 hm => ?_, fun h => ?_⟩
  · rw [State.watermark_fall h0 h1]
    exact State.raise_enabled (k := .playoutLow) hne hm _
  · rw [State.watermark_rise h0 h1]
    exact State.raise_enabled (k := .playoutRecovered) hne hm _
  · rcases Nat.lt_or_ge w before with h0 | h0 <;> rcases Nat.lt_or_ge w now with h1 | h1
    · exact State.watermark_level (iff_of_false (Nat.not_le_of_lt h0) (Nat.not_le_of_lt h1))
    · rw [State.watermark_fall h0 h1]
      refine State.raise_disabled ?_ _
      rcases h with h | h | h
      · omega
      · exact h.2
      · omega
    · rw [State.watermark_rise h0 h1]
      refine State.raise_disabled ?_ _
      rcases h with h | h | h
      · omega
      · omega
      · exact h.2
    · exact State.watermark_level (iff_of_true h0 h1)

/-! ### Convergence and divergence (R64 to R67) -/

theorem Filter.training_iff (f : Filter) : f.training = true ↔ f.taps ≠ [] ∧ f.gear = .train := by
  simp [Filter.training]

theorem Gear.adapts_iff (g : Gear) : g.adapts = true ↔ g = .train ∨ g = .track := by
  cases g <;> simp [Gear.adapts]

theorem Filter.adapting_iff (f : Filter) : f.adapting = true ↔ f.taps ≠ [] ∧ (f.gear = .train ∨ f.gear = .track) := by
  simp [Filter.adapting, Gear.adapts_iff]

/-- Is convergence judged, and does its condition hold (R64)? -/
def Channel.ConvergenceMet (ch : Channel) : Prop :=
  ((ch.autoNear = true ∧ ch.near.taps ≠ [] ∧ ch.near.gear = .train) ∨
    (ch.autoFar = true ∧ ch.far.taps ≠ [] ∧ ch.far.gear = .train)) ∧
  ch.floor ≤ ch.py.toNat ∧ ch.pe.toNat * 2 ^ ch.c ≤ ch.py.toNat

/-- Is divergence judged, and does its condition hold (R66)? -/
def Channel.DivergenceMet (ch : Channel) : Prop :=
  ((ch.near.taps ≠ [] ∧ (ch.near.gear = .train ∨ ch.near.gear = .track)) ∨
    (ch.far.taps ≠ [] ∧ (ch.far.gear = .train ∨ ch.far.gear = .track))) ∧
  ch.floor ≤ ch.py.toNat ∧ 2 * ch.py.toNat < ch.pe.toNat

theorem Channel.convergenceMet_iff (ch : Channel) :
    (ch.evaluatesConvergence && ch.convergenceHolds) = true ↔ ch.ConvergenceMet := by
  simp [Channel.evaluatesConvergence, Channel.convergenceHolds, Channel.ConvergenceMet, Filter.training_iff]

theorem Channel.divergenceMet_iff (ch : Channel) :
    (ch.evaluatesDivergence && ch.divergenceHolds) = true ↔ ch.DivergenceMet := by
  simp [Channel.evaluatesDivergence, Channel.divergenceHolds, Channel.DivergenceMet, Filter.adapting_iff]

theorem Channel.nextConvRun_met {ch : Channel} (h : ch.ConvergenceMet) : ch.nextConvRun = ch.convRun + 1 :=
  if_pos (ch.convergenceMet_iff.mpr h)

theorem Channel.nextConvRun_unmet {ch : Channel} (h : ¬ ch.ConvergenceMet) : ch.nextConvRun = 0 :=
  if_neg (mt ch.convergenceMet_iff.mp h)

theorem Channel.nextDivRun_met {ch : Channel} (h : ch.DivergenceMet) : ch.nextDivRun = ch.divRun + 1 :=
  if_pos (ch.divergenceMet_iff.mpr h)

theorem Channel.nextDivRun_unmet {ch : Channel} (h : ¬ ch.DivergenceMet) : ch.nextDivRun = 0 :=
  if_neg (mt ch.divergenceMet_iff.mp h)

theorem Channel.converges_iff (ch : Channel) :
    ch.converges = true ↔ ch.ConvergenceMet ∧ ch.convBlocks ≤ ch.convRun + 1 := by
  rw [Channel.converges, Bool.and_eq_true, ch.convergenceMet_iff, decide_eq_true_iff]
  exact and_congr_right fun h => by rw [Channel.nextConvRun_met h]

theorem Channel.diverges_iff (ch : Channel) : ch.diverges = true ↔ ch.DivergenceMet ∧ ch.divBlocks ≤ ch.divRun + 1 := by
  rw [Channel.diverges, Bool.and_eq_true, ch.divergenceMet_iff, decide_eq_true_iff]
  exact and_congr_right fun h => by rw [Channel.nextDivRun_met h]

theorem Channel.convergeStep_unmet {ch : Channel} (h : ¬ ch.ConvergenceMet) :
    ch.convergeStep = { ch with convRun := 0 } := by
  rw [Channel.convergeStep, if_neg fun hc => h (ch.converges_iff.mp hc).1, Channel.nextConvRun_unmet h]

theorem Channel.convergeStep_short {ch : Channel} (h : ch.ConvergenceMet) (hn : ch.convRun + 1 < ch.convBlocks) :
    ch.convergeStep = { ch with convRun := ch.convRun + 1 } := by
  rw [Channel.convergeStep, if_neg fun hc => absurd (ch.converges_iff.mp hc).2 (Nat.not_le_of_lt hn),
    Channel.nextConvRun_met h]

theorem Channel.convergeStep_done {ch : Channel} (h : ch.converges = true) :
    ch.convergeStep = { ch with
      near := if ch.autoNear = true ∧ ch.near.gear = .train then { ch.near with gear := .track } else ch.near
      far := if ch.autoFar = true ∧ ch.far.gear = .train then { ch.far with gear := .track } else ch.far
      convRun := 0, flags := ch.flags ||| 256 } := by
  rw [Channel.convergeStep, if_pos h]
  simp only [Channel.movesNear, Channel.movesFar, Bool.and_eq_true, beq_iff_eq]
  rfl

theorem Channel.divergeStep_unmet {ch : Channel} (h : ¬ ch.DivergenceMet) :
    ch.divergeStep = { ch with divRun := 0 } := by
  rw [Channel.divergeStep, if_neg fun hc => h (ch.diverges_iff.mp hc).1, Channel.nextDivRun_unmet h]

theorem Channel.divergeStep_short {ch : Channel} (h : ch.DivergenceMet) (hn : ch.divRun + 1 < ch.divBlocks) :
    ch.divergeStep = { ch with divRun := ch.divRun + 1 } := by
  rw [Channel.divergeStep, if_neg fun hc => absurd (ch.diverges_iff.mp hc).2 (Nat.not_le_of_lt hn),
    Channel.nextDivRun_met h]

theorem Filter.retrain_eq (f : Filter) :
    f.retrain =
      if f.gear = .train ∨ f.gear = .track then { f with gear := .train, taps := f.taps.map fun _ => 0 } else f := by
  simp only [Filter.retrain, Filter.zeroTaps_eq, Gear.adapts_iff]

theorem Channel.divergeStep_done {ch : Channel} (h : ch.diverges = true) :
    ch.divergeStep = { ch with
      near := ch.near.retrain, far := ch.far.retrain, convRun := 0, divRun := 0, flags := ch.flags ||| 128
      cnt := { ch.cnt with divergences := stick16 ch.cnt.divergences } } :=
  if_pos h

theorem Channel.movesNear_eq (ch : Channel) : ch.movesNear = (ch.autoNear && decide (ch.near.gear = .train)) := by
  rw [Channel.movesNear, beq_eq_decide]

theorem Channel.movesFar_eq (ch : Channel) : ch.movesFar = (ch.autoFar && decide (ch.far.gear = .train)) := by
  rw [Channel.movesFar, beq_eq_decide]

theorem Gear.adapts_eq (g : Gear) : g.adapts = decide (g = .train ∨ g = .track) := by
  cases g <;> rfl

/-- The two conditions exclude each other: the residual power of one is at most the line power, of the other twice it. -/
theorem not_quiet_and_loud {py pe k : Nat} (hq : pe * 2 ^ k ≤ py) (hl : 2 * py < pe) : False := by
  have : pe ≤ pe * 2 ^ k := Nat.le_mul_of_pos_right _ (by positivity)
  omega

/-- Settles O43: the two steps by their runs, their notices, and the notices of every kind of the mask. -/
theorem convergenceAndDivergenceAreJudgedByRuns : Obligations.ConvergenceAndDivergenceAreJudgedByRuns := by
  refine ⟨?_, ?_, ?_⟩
  · intro ch trains adapts quiet loud judged retrained
    refine ⟨Channel.convergeStep_unmet, fun hj hq => Channel.convergeStep_short ⟨hj, hq⟩, fun hj hq hn => ?_,
      Channel.divergeStep_unmet, fun ha hl => Channel.divergeStep_short ⟨ha, hl⟩, fun ha hl hn => ?_,
      fun _ ⟨⟨_, hq⟩, ⟨_, hl⟩⟩ => not_quiet_and_loud hq hl⟩
    · exact Channel.convergeStep_done (ch.converges_iff.mpr ⟨⟨hj, hq⟩, hn⟩)
    · rw [Channel.divergeStep_done (ch.diverges_iff.mpr ⟨⟨ha, hl⟩, hn⟩), Filter.retrain_eq, Filter.retrain_eq]
  · intro c s ch quiet loud trains adapts done lost moved retrained
    have hdone : done ↔ ch.converges = true := by
      rw [Channel.converges_iff, Channel.ConvergenceMet, and_assoc]
    have hlost : lost ↔ ch.diverges = true := by
      rw [Channel.diverges_iff, Channel.DivergenceMet, and_assoc]
    refine ⟨fun h => ?_, fun h => if_neg (mt hdone.mpr h), fun h => ?_, fun h => if_neg (mt hlost.mpr h)⟩
    · refine (if_pos (hdone.mp h)).trans ?_
      rw [Channel.movesNear_eq, Channel.movesFar_eq]
    · refine (if_pos (hlost.mp h)).trans ?_
      rw [Gear.adapts_eq, Gear.adapts_eq]
  · intro c b s ch hne k hk
    have hindex : k.1 = k.2.index := by
      simp only [List.mem_cons, List.not_mem_nil, or_false] at hk
      rcases hk with rfl | rfl | rfl | rfl | rfl | rfl <;> rfl
    rw [hindex]
    exact ⟨fun h => State.raise_enabled hne h b, fun h => State.raise_disabled h b⟩

/-! ### The rx queue (R80 to R83) -/

/-- The entry that a closed block makes (R82). -/
def Channel.closedEntry (ch : Channel) (samples : List Sample) : RxEntry :=
  { seq := ch.nextRx, samples := samples, due := ch.recipients }

theorem State.closeRxBlock_nobody {s : State} {c : Chan} (h : (s.chan c).recipients = []) (samples : List Sample) :
    s.closeRxBlock c samples = s.setChan c (s.chan c).closed := if_pos h

theorem State.closeRxBlock_room {s : State} {c : Chan} (h : (s.chan c).recipients ≠ [])
    (hroom : (s.chan c).rxq.length < Config.rxDepth) (samples : List Sample) :
    s.closeRxBlock c samples = s.setChan c ((s.chan c).closed.queueRx ((s.chan c).closedEntry samples)) := by
  refine (if_neg h).trans ?_
  split
  · exact if_pos hroom
  · rfl

theorem State.closeRxBlock_full {s : State} {c : Chan} {e : RxEntry} {es : List RxEntry} (h :
    (s.chan c).recipients ≠ [])
    (hq : (s.chan c).rxq = e :: es) (hfull : ¬ (s.chan c).rxq.length < Config.rxDepth) (samples : List Sample) :
    s.closeRxBlock c samples =
      (s.setChan c ((s.chan c).closed.queueRx ((s.chan c).closedEntry samples))).raise c .rxOverrun (.rxOverrun e.seq) := by
  refine (if_neg h).trans ?_
  split
  · rename_i oldest rest heq
    obtain ⟨rfl, -⟩ := List.cons.inj (heq.symm.trans hq)
    exact if_neg hfull
  · rename_i hnil
    exact nomatch hnil.symm.trans hq

/-- Settles O45: no recipient, room in the queue, or a full queue, whose oldest entry leaves. -/
theorem closedRxBlocksJoinTheQueue : Obligations.ClosedRxBlocksJoinTheQueue := by
  intro c samples s ch due entry
  refine ⟨fun h => State.closeRxBlock_nobody h samples, fun h hroom => ?_, fun e es h hnodup hq hlen => ?_⟩
  · rw [State.closeRxBlock_room h hroom]
    exact congrArg (s.setChan c) (if_pos hroom)
  · intro t
    have hfull : ¬ ch.rxq.length < Config.rxDepth := Nat.not_lt_of_le hlen
    have hclosed : ch.closed.queueRx (ch.closedEntry samples) = { ch with
        asm := [], nextRx := ch.nextRx + 1, rxq := es ++ [entry], flags := ch.flags ||| 16
        cnt := { ch.cnt with rxBlocksDropped := stick16 ch.cnt.rxBlocksDropped } } := by
      refine (if_neg hfull).trans ?_
      have hdrop : ch.closed.rxq.drop 1 = es := by rw [Channel.closed, hq]; rfl
      rw [hdrop]
      rfl
    have ht : t = (s.setChan c { ch with
        asm := [], nextRx := ch.nextRx + 1, rxq := es ++ [entry], flags := ch.flags ||| 16
        cnt := { ch.cnt with rxBlocksDropped := stick16 ch.cnt.rxBlocksDropped } }).raise c .rxOverrun
          (.rxOverrun e.seq) := by
      rw [← hclosed]
      exact State.closeRxBlock_full h hq hfull samples
    rw [ht]
    refine ⟨(State.raise_sameButPorts _ c .rxOverrun _).with_links s.links, fun i => ?_⟩
    rw [State.port_raise _ c .rxOverrun _ i (by rw [State.chan_setChan]; exact hnodup), State.chan_setChan]
    rfl

end Sys2Proof.Machine

/-! SUPPORT. TX_BLOCK and the playout sample. -/

namespace Sys2Proof.Machine

/-! ### The window -/

theorem shiftWindow_eq_ofFn (n : Nat) (w : Vector (Option Block) 16) :
    shiftWindow n w = Vector.ofFn fun i => if h : i.val + n < 16 then w[i.val + n] else none :=
  Vector.ext fun i hi => by rw [getElem_shiftWindow n w i hi, Vector.getElem_ofFn]

/-- The lowest occupied position of a window, named. -/
theorem lowestOffset_eq {w : Vector (Option Block) 16} {n : Fin 16} (hn : w[n] ≠ none)
    (hbelow : ∀ i : Fin 16, i < n → w[i] = none) : lowestOffset w = n.val := by
  obtain ⟨hl, hsome, hmin⟩ := lowestOffset_spec (i := n) (Option.isSome_iff_ne_none.mpr hn)
  rcases Nat.lt_trichotomy (lowestOffset w) n.val with h | h | h
  · have := hbelow ⟨lowestOffset w, hl⟩ h
    rw [Fin.getElem_fin] at this
    rw [this] at hsome
    exact absurd hsome nofun
  · exact h
  · exact absurd (hmin n h) hn

theorem Playout.startCheck_starts {p : Playout} {n : Fin 16} (hs : p.state = .priming) (hd : p.startDepth ≤ p.depth)
    (hn : p.window[n] ≠ none) (hbelow : ∀ i : Fin 16, i < n → p.window[i] = none) :
    p.startCheck = { p with
      state := .playing, e := p.e + BitVec.ofNat 16 n.val
      window := Vector.ofFn fun i => if h : i.val + n.val < 16 then p.window[i.val + n.val] else none } := by
  rw [Playout.startCheck, if_pos ⟨hs, hd⟩, lowestOffset_eq hn hbelow, shiftWindow_eq_ofFn]

theorem Playout.startCheck_stays {p : Playout} (h : p.state = .playing ∨ p.depth < p.startDepth) :
    p.startCheck = p := by
  refine if_neg fun ⟨hs, hd⟩ => ?_
  rcases h with h | h
  · rw [h] at hs; cases hs
  · omega

/-! ### The four outcomes of an accepted block (R34, R35) -/

theorem Channel.takeBlock_store {ch : Channel} {q : Seq} (h : (q - ch.play.e).toNat < 16)
    (hempty : ch.play.window[(q - ch.play.e).toNat] = none) (b : Block) :
    ch.takeBlock q b = { ch with
      play := { ch.play with window := ch.play.window.set (q - ch.play.e).toNat (some b) }.startCheck } := by
  have ho : ch.play.offset q < 16 := h
  have hfree : ¬ (ch.play.window[ch.play.offset q]).isSome = true := by
    have : ch.play.window[ch.play.offset q] = none := hempty
    rw [this]
    nofun
  rw [Channel.takeBlock, dif_pos ho, if_neg hfree, Playout.store_of_lt ho]
  rfl

theorem Channel.takeBlock_duplicate {ch : Channel} {q : Seq} (h : (q - ch.play.e).toNat < 16)
    (hfull : ch.play.window[(q - ch.play.e).toNat] ≠ none) (b : Block) :
    ch.takeBlock q b = { ch with
      cnt := { ch.cnt with blocksDuplicate := stick16 ch.cnt.blocksDuplicate }, flags := ch.flags ||| 2 } := by
  have ho : ch.play.offset q < 16 := h
  have hsome : (ch.play.window[ch.play.offset q]).isSome = true := Option.isSome_iff_ne_none.mpr hfull
  rw [Channel.takeBlock, dif_pos ho, if_pos hsome]
  rfl

theorem Channel.takeBlock_jump {ch : Channel} {q : Seq} (h : 16 ≤ (q - ch.play.e).toNat)
    (h' : (q - ch.play.e).toNat ≤ 32767) (b : Block) :
    ch.takeBlock q b = { ch with
      play := { ch.play with
        e := q - 15
        window := Vector.ofFn fun i =>
          if i = 15 then some b
          else if h : i.val + ((q - ch.play.e).toNat - 15) < 16 then
              ch.play.window[i.val + ((q - ch.play.e).toNat - 15)]
          else none }.startCheck
      cnt := { ch.cnt with jumps := stick16 ch.cnt.jumps }, flags := ch.flags ||| 4 } := by
  have hlo : ¬ ch.play.offset q < 16 := Nat.not_lt_of_le h
  have hhi : ch.play.offset q < 32768 := Nat.lt_succ_of_le h'
  have hwindow : (shiftWindow ((q - ch.play.e).toNat - 15) ch.play.window).set 15 (some b) =
      Vector.ofFn fun i => if i = 15 then some b
        else if h : i.val + ((q - ch.play.e).toNat - 15) < 16 then ch.play.window[i.val + ((q - ch.play.e).toNat - 15)]
        else none := by
    refine Vector.ext fun i hi => ?_
    rw [Vector.getElem_set, Vector.getElem_ofFn, getElem_shiftWindow _ _ i hi]
    exact if_congr (by rw [eq_comm]; exact (Fin.ext_iff (a := ⟨i, hi⟩) (b := (15 : Fin 16))).symm) rfl rfl
  rw [Channel.takeBlock, dif_neg hlo, if_pos hhi, Playout.jump, Playout.store_of_lt (by decide), ← hwindow]
  rfl

theorem Channel.takeBlock_late {ch : Channel} {q : Seq} (h : 32768 ≤ (q - ch.play.e).toNat) (b : Block) :
    ch.takeBlock q b = { ch with
      cnt := { ch.cnt with blocksLate := stick16 ch.cnt.blocksLate }, flags := ch.flags ||| 2 } := by
  have hlo : ¬ ch.play.offset q < 16 := Nat.not_lt_of_le (Nat.le_trans (by decide) h)
  have hhi : ¬ ch.play.offset q < 32768 := Nat.not_lt_of_le h
  rw [Channel.takeBlock, dif_neg hlo, if_neg hhi]
  rfl

/-! ### TX_BLOCK (R33) -/

theorem Channel.acceptsBlock_iff (ch : Channel) (l : Link) : ch.acceptsBlock l = true ↔
    (ch.state = .active ∧ ch.holder = some l) ∨
      (ch.state = .handoverPending ∧ (ch.holder = some l ∨ (ch.offer.map Offer.target) = some l)) := by
  unfold Channel.acceptsBlock
  cases ch.state <;> simp

theorem blockOfWords_eq (xs : Vector Word 8) :
    blockOfWords xs = Vector.ofFn fun i => (xs[i.val / 2]'(by omega)).extractLsb' (16 * (i.val % 2)) 16 := by
  simp only [blockOfWords, sampleAt_eq_extractLsb']

theorem State.listens_iff (s : State) (l : Link) : s.listens l = true ↔ s.pin = false ∧ (s.port l).state = .up := by
  simp [State.listens]

/-- A TX_BLOCK that its channel accepts, its bits heard first. -/
theorem exec_txBlock_taken {l : Link} {c : Chan} {s : State} (hpin : s.pin = false) (hup : (s.port l).state = .up)
    (hclear : s.clear = .none) (hours : (s.chan c).acceptsBlock l = true) (w : Word) (xs : Vector Word 8) :
    exec (.txBlock l (fieldOfChan c) w xs) s =
      .next (((s.updPort l LinkPort.heard).setChan c
        ((s.chan c).takeBlock (w.extractLsb' 0 16) (blockOfWords xs))).watermark c (s.chan c).play.depth) := by
  have hmark : ¬ s.mark = true := by rw [State.mark_eq_false.mpr hclear]; nofun
  have htransmit : (s.updPort l LinkPort.heard).transmitBlock l (fieldOfChan c) (sampleAt w 0) (blockOfWords xs) =
      ((s.updPort l LinkPort.heard).setChan c
        ((s.chan c).takeBlock (w.extractLsb' 0 16) (blockOfWords xs))).watermark c (s.chan c).play.depth := by
    rw [State.transmitBlock, chanOf_fieldOfChan, sampleAt_eq_extractLsb']
    exact if_pos hours
  exact (if_pos ((s.listens_iff l).mpr ⟨hpin, hup⟩)).trans ((if_neg hmark).trans (congrArg _ htransmit))

/-- A TX_BLOCK that no channel accepts is counted as foreign. -/
theorem exec_txBlock_foreign {l : Link} {f : ChanField} {s : State} (hpin : s.pin = false) (hup :
    (s.port l).state = .up)
    (hclear : s.clear = .none) (hforeign : ∀ c, chanOf f = some c → ¬ (s.chan c).acceptsBlock l = true) (w : Word)
    (xs : Vector Word 8) :
    exec (.txBlock l f w xs) s =
      .next (s.updPort l fun p => { p.heard with foreignBlocks := stick16 p.foreignBlocks }) := by
  have hmark : ¬ s.mark = true := by rw [State.mark_eq_false.mpr hclear]; nofun
  have htransmit : (s.updPort l LinkPort.heard).transmitBlock l f (sampleAt w 0) (blockOfWords xs) =
      (s.updPort l LinkPort.heard).foreignBlock l := by
    unfold State.transmitBlock
    cases hf : chanOf f with
    | none => rfl
    | some c => exact if_neg (hforeign c hf)
  refine (if_pos ((s.listens_iff l).mpr ⟨hpin, hup⟩)).trans ((if_neg hmark).trans (congrArg _ ?_))
  rw [htransmit]
  exact State.updPort_updPort ..

/-- Settles O36: the four offsets of an accepted block, a foreign one, the transition out of PRIMING, and a deaf link. -/
theorem txBlockIsPlacedByItsOffset : Obligations.TxBlockIsPlacedByItsOffset := by
  refine ⟨?_, fun p n => ⟨Playout.startCheck_starts, Playout.startCheck_stays⟩, fun l f w xs s => ⟨fun h => ?_, ?_, ?_⟩⟩
  · intro l c w xs s ch p q o b ours heard late hpin hup hclear
    have hb : blockOfWords xs = b := blockOfWords_eq xs
    have htaken (h : ours) := exec_txBlock_taken hpin hup hclear ((ch.acceptsBlock_iff l).mpr h) w xs
    rw [hb] at htaken
    have hlevel (x : Channel) (hx : x.play = p) : (heard.setChan c x).watermark c p.depth = heard.setChan c x :=
      State.watermark_level (by rw [State.chan_setChan, hx])
    refine ⟨fun h ho hnone => ?_, fun h ho hfull => ?_, fun h hlo hhi => ?_, fun h hlo => ?_, fun h => ?_⟩
    · rw [htaken h, Channel.takeBlock_store ho hnone]
    · rw [htaken h, Channel.takeBlock_duplicate ho hfull]
      exact congrArg _ (hlevel _ rfl)
    · rw [htaken h, Channel.takeBlock_jump hlo hhi]
    · rw [htaken h, Channel.takeBlock_late hlo]
      exact congrArg _ (hlevel _ rfl)
    · refine exec_txBlock_foreign hpin hup hclear (fun c' hc' ha => h ?_) w xs
      rw [chanOf_fieldOfChan] at hc'
      cases hc'
      exact (ch.acceptsBlock_iff l).mp ha
  · exact if_neg (by rw [State.not_listens h]; nofun)
  · intro hpin hup hclear
    have hmark : s.mark = true := by simpa [State.mark] using hclear
    exact (if_pos ((s.listens_iff l).mpr ⟨hpin, hup⟩)).trans (if_pos hmark)
  · intro hpin hup hclear hf
    exact exec_txBlock_foreign hpin hup hclear (fun c hc => by rw [chanOf_eq_none.mpr hf] at hc; cases hc) w xs

/-! ### The playout sample (R37 to R39) -/

theorem blockSample_eq (b : Block) {i : Nat} (h : i < 16) : blockSample b i = b[i] := by
  simp [blockSample, h]

theorem State.playoutSample_priming {s : State} {c : Chan} (h : (s.chan c).play.state = .priming) :
    s.playoutSample c = (s, (s.chan c).idle) := by
  rw [State.playoutSample, h]

theorem State.playoutSample_within {s : State} {c : Chan} {b : Block} (h : (s.chan c).play.state = .playing)
    (hb : (s.chan c).play.current = some b) (hr : (s.chan c).play.readPos < 16) :
    s.playoutSample c =
      (s.setChan c { s.chan c with play := { (s.chan c).play with readPos := (s.chan c).play.readPos + 1 } },
       b[(s.chan c).play.readPos]) := by
  rw [State.playoutSample, h, hb]
  exact (if_pos hr).trans (Prod.ext rfl (blockSample_eq b hr))

/-- A PLAYING channel without samples left starts a block. -/
theorem State.playoutSample_start {s : State} {c : Chan} (h : (s.chan c).play.state = .playing)
    (hs : (s.chan c).play.current = none ∨ (s.chan c).play.readPos = 16) : s.playoutSample c = s.blockStart c := by
  rw [State.playoutSample, h]
  cases hc : (s.chan c).play.current with
  | none => rfl
  | some b =>
    rcases hs with hs | hs
    · rw [hc] at hs; cases hs
    · exact if_neg (by rw [hs]; decide)

theorem State.blockStart_empty {s : State} {c : Chan} (h : (s.chan c).play.depth = 0) :
    ∃ r ≤ 16, s.blockStart c =
      (({ s.setChan c { s.chan c with
            play := { (s.chan c).play with state := .priming, current := none, readPos := r }
            flags := (s.chan c).flags ||| 1
            cnt := { (s.chan c).cnt with underruns := stick16 (s.chan c).cnt.underruns } } with
          freeCount := s.freeCount + 1 } : State).raise c .underrun (.underrun (s.chan c).play.e), (s.chan c).idle) :=
  ⟨(Config.readPosAfterUnderrun s.freeCount).val, Nat.le_of_lt_succ (Config.readPosAfterUnderrun s.freeCount).isLt,
    if_pos h⟩

theorem State.blockStart_real {s : State} {c : Chan} {b : Block} (hb : (s.chan c).play.window[0] = some b) :
    s.blockStart c =
      ((s.setChan c { s.chan c with
          play := (s.chan c).play.startBlock b
          cnt := { (s.chan c).cnt with blocksPlayed := (s.chan c).cnt.blocksPlayed + 1 } }).watermark c
            (s.chan c).play.depth, b[0]) := by
  have hd : ¬ (s.chan c).play.depth = 0 := Nat.ne_of_gt (Playout.depth_pos_of (by decide) hb)
  rw [State.blockStart]
  refine (if_neg hd).trans ?_
  rw [hb]
  exact Prod.ext rfl (blockSample_eq b (by decide))

theorem State.blockStart_missing {s : State} {c : Chan} (hn : (s.chan c).play.window[0] = none)
    (hd : 0 < (s.chan c).play.depth) :
    s.blockStart c =
      ((s.setChan c { s.chan c with
          play := (s.chan c).play.startFill, flags := (s.chan c).flags ||| 8
          cnt := { (s.chan c).cnt with blocksMissing := stick16 (s.chan c).cnt.blocksMissing } }).watermark c
            (s.chan c).play.depth, (s.chan c).play.fillBlock[0]) := by
  rw [State.blockStart]
  refine (if_neg (Nat.ne_of_gt hd)).trans ?_
  rw [hn]
  exact Prod.ext rfl (blockSample_eq _ (by decide))

/-- Settles O38: PRIMING, a sample of the current block, and the three ways of a block start. -/
theorem playoutGivesTheNextSample : Obligations.PlayoutGivesTheNextSample := by
  intro c s ch p starts advance fill
  have hfill : p.fillBlock = fill := by
    unfold Playout.fillBlock
    rfl
  refine ⟨State.playoutSample_priming, fun b h hb hr => State.playoutSample_within h hb hr, fun b ⟨h, hs⟩ hb => ?_,
    fun ⟨h, hs⟩ hn hd => ?_, fun ⟨h, hs⟩ hd => ?_⟩
  · rw [State.playoutSample_start h hs, State.blockStart_real hb, Playout.startBlock, shiftWindow_eq_ofFn]
  · rw [State.playoutSample_start h hs, State.blockStart_missing hn hd, Playout.startFill, shiftWindow_eq_ofFn]
    rw [← hfill]
  · rw [State.playoutSample_start h hs]
    exact State.blockStart_empty hd

end Sys2Proof.Machine

/-! SUPPORT. The history ring: what a ring position reads after writes, and the ages of samples. -/

namespace Sys2Proof.Machine

/-! ### Ring positions -/

theorem ringAddr_eq_some {ps : List Page} {p a : Nat} :
    ringAddr ps p = some a ↔ ∃ pg, ps[p / 256]? = some pg ∧ a = 256 * pg.val + p % 256 := by
  rw [ringAddr, Option.map_eq_some_iff]
  simp only [Config.pageSize, Nat.mul_comm, eq_comm]

theorem ringAddr_isSome {ps : List Page} {p : Nat} (h : p < 256 * ps.length) : ∃ a, ringAddr ps p = some a := by
  have hlt : p / 256 < ps.length := by omega
  exact ⟨_, ringAddr_eq_some.mpr ⟨ps[p / 256], List.getElem?_eq_getElem hlt, rfl⟩⟩

/-- Two positions of a ring of distinct pages are two places of the storage. -/
theorem ringAddr_inj {ps : List Page} (hn : ps.Nodup) {p q a : Nat} (hp : ringAddr ps p = some a)
    (hq : ringAddr ps q = some a) : p = q := by
  obtain ⟨x, hx, hax⟩ := ringAddr_eq_some.mp hp
  obtain ⟨y, hy, hay⟩ := ringAddr_eq_some.mp hq
  have hpage : x = y := Fin.ext (by omega)
  obtain ⟨hi, hxi⟩ := List.getElem?_eq_some_iff.mp hx
  obtain ⟨hj, hyj⟩ := List.getElem?_eq_some_iff.mp hy
  have hindex : p / 256 = q / 256 := (hn.getElem_inj_iff).mp (hxi.trans (hpage.trans hyj.symm))
  have : x.val = y.val := congrArg Fin.val hpage
  omega

/-- A ring position reads what was written there, and what it read before a write at another position. -/
theorem ringRead_ringWrite {m : Memory} (hm : m.wf = true) {ps : List Page} (hn : ps.Nodup) {p : Nat}
    (hp : p < 256 * ps.length) (x : Sample) (q : Nat) :
    ringRead (ringWrite m ps p x) ps q = if q = p then x else ringRead m ps q := by
  obtain ⟨a, ha⟩ := ringAddr_isSome hp
  rw [ringWrite, ha]
  unfold ringRead
  cases hq : ringAddr ps q with
  | none =>
    have hne : q ≠ p := fun h => by rw [h, ha] at hq; cases hq
    rw [if_neg hne]
  | some b =>
    have hiff : b = a ↔ q = p :=
      ⟨fun h => ringAddr_inj hn hq (h ▸ ha), fun h => Option.some_inj.mp (hq.symm.trans (h ▸ ha))⟩
    exact (Memory.read_write hm a b x).trans (if_congr hiff rfl rfl)

/-- Samples written one after another are read at their positions, and every other position as before. -/
theorem ringRead_ringWriteFrom {ps : List Page} (hn : ps.Nodup) (vs : List Sample) {m : Memory} (hm : m.wf = true) {p :
    Nat}
    (hp : p + vs.length ≤ 256 * ps.length) (q : Nat) :
    ringRead (ringWriteFrom m ps p vs) ps q =
      if p ≤ q ∧ q < p + vs.length then vs.getD (q - p) 0 else ringRead m ps q := by
  induction vs generalizing m p with
  | nil => exact (if_neg fun h => by rw [List.length_nil] at h; omega).symm
  | cons v vs ih =>
    rw [List.length_cons] at hp
    rw [ringWriteFrom, ih (ringWrite_wf hm ps p v) (by omega), ringRead_ringWrite hm hn (by omega), List.length_cons]
    rcases Nat.lt_trichotomy q p with h | h | h
    · rw [if_neg (by omega), if_neg (by omega), if_neg (by omega)]
    · subst h
      rw [if_neg (by omega), if_pos rfl, if_pos (by omega), Nat.sub_self]
      rfl
    · obtain ⟨d, rfl⟩ : ∃ d, q = p + 1 + d := ⟨q - (p + 1), by omega⟩
      rw [if_neg (show ¬ p + 1 + d = p by omega), show p + 1 + d - (p + 1) = d by omega,
        show p + 1 + d - p = d + 1 by omega]
      exact if_congr (by omega) rfl rfl

/-- The pages that a ring does not reach do not matter to it. -/
theorem ringRead_take {m : Memory} {ps : List Page} {n p : Nat} (h : p < 256 * n) :
    ringRead m (ps.take n) p = ringRead m ps p := by
  have : p / 256 < n := by omega
  rw [ringRead, ringRead, ringAddr, ringAddr, show Config.pageSize = 256 from rfl, List.getElem?_take_of_lt this]

/-! ### Ages -/

/-- The position that holds the sample of an age, counted back from the write position. -/
theorem agePosition_eq {w r j : Nat} (hw : w < r) (hj : j < r) :
    (w + r - 1 - j) % r = if j < w then w - 1 - j else w + r - 1 - j := by
  split
  · rw [show w + r - 1 - j = w - 1 - j + r by omega, Nat.add_mod_right, Nat.mod_eq_of_lt (by omega)]
  · exact Nat.mod_eq_of_lt (by omega)

theorem State.chan_writeHistory (s : State) (c : Chan) (x : Sample) :
    (s.writeHistory c x).chan c = (s.chan c).advanceHistory := State.chan_setChan ..

theorem Channel.advanceHistory_eq {ch : Channel} (hw : ch.writePos < ch.ringLength) (hf : ch.filled ≤ ch.ringLength) :
    ch.advanceHistory = { ch with
      writePos := (ch.writePos + 1) % ch.ringLength, filled := min (ch.filled + 1) ch.ringLength } := by
  have hpos : (if ch.writePos + 1 ≥ ch.ringLength then 0 else ch.writePos + 1) = (ch.writePos + 1) % ch.ringLength := by
    split
    · rw [show ch.writePos + 1 = ch.ringLength by omega, Nat.mod_self]
    · exact (Nat.mod_eq_of_lt (by omega)).symm
  have hfill : (if ch.filled ≥ ch.ringLength then ch.filled else ch.filled + 1) =
      min (ch.filled + 1) ch.ringLength := by
    split <;> omega
  rw [Channel.advanceHistory, hpos, hfill]

/-- Stepping the write position makes every age one frame older. -/
theorem agePosition_step {w r j : Nat} (hw : w < r) (hj : j + 1 < r) :
    ((w + 1) % r + r - 1 - (j + 1)) % r = (w + r - 1 - j) % r := by
  rw [agePosition_eq (Nat.mod_lt _ (by omega)) hj, agePosition_eq hw (by omega)]
  rcases Nat.lt_or_ge (w + 1) r with h | h
  · rw [Nat.mod_eq_of_lt h]
    split <;> split <;> omega
  · rw [show w + 1 = r by omega, Nat.mod_self]
    split <;> split <;> omega

theorem agePosition_zero {w r : Nat} (hw : w < r) : ((w + 1) % r + r - 1 - 0) % r = w := by
  rw [agePosition_eq (Nat.mod_lt _ (by omega)) (by omega)]
  rcases Nat.lt_or_ge (w + 1) r with h | h
  · rw [Nat.mod_eq_of_lt h]
    split <;> omega
  · rw [show w + 1 = r by omega, Nat.mod_self]
    split <;> omega

theorem agePosition_ne {w r j : Nat} (hw : w < r) (hj : j + 1 < r) : (w + r - 1 - j) % r ≠ w := by
  rw [agePosition_eq hw (by omega)]
  split <;> omega

/-- The pages of the ring are among the pages of the record. -/
theorem Channel.ringLength_le (ch : Channel) : ch.ringLength ≤ 256 * ch.pages.length :=
  Nat.mul_le_mul_left 256 (Nat.sub_le ..)

/-- Settles O39. -/
theorem historyKeepsTheLatestSamples : Obligations.HistoryKeepsTheLatestSamples := by
  intro c x s ch t hwf hn hr hw hf
  have hrecord : t.chan c = { ch with
      writePos := (ch.writePos + 1) % ch.ringLength, filled := min (ch.filled + 1) ch.ringLength } :=
    (s.chan_writeHistory c x).trans (Channel.advanceHistory_eq hw hf)
  have hpool : t.pool = ringWrite s.pool ch.pages ch.writePos x := rfl
  have hin : ch.writePos < 256 * ch.pages.length := Nat.lt_of_lt_of_le hw ch.ringLength_le
  have hage (j : Nat) : (t.chan c).sampleOfAge t.pool j =
      if j < min (ch.filled + 1) ch.ringLength then
        ringRead (ringWrite s.pool ch.pages ch.writePos x) ch.pages
          (((ch.writePos + 1) % ch.ringLength + ch.ringLength - 1 - j) % ch.ringLength)
      else 0 := by
    rw [hrecord]
    rfl
  refine ⟨?_, fun j => ?_, fun a ha => read_ringWrite_other hwf _ _ x a ha, ringWrite_wf hwf _ _ x, ?_⟩
  · rw [hage, if_pos (by omega), agePosition_zero hw, ringRead_ringWrite hwf hn hin, if_pos rfl]
  · rw [hage]
    by_cases hj : j + 1 < ch.ringLength
    · rw [if_pos hj, agePosition_step hw hj, ringRead_ringWrite hwf hn hin, if_neg (agePosition_ne hw hj)]
      exact if_congr (by omega) rfl rfl
    · rw [if_neg hj, if_neg (by omega)]
  · rw [hpool, ← Channel.advanceHistory_eq hw hf]
    rfl

/-! ### The application of a retune (R75 to R77) -/

theorem Gear.held_eq (g : Gear) : g.held = if g = .off then .off else .hold := by
  cases g <;> rfl

/-- The samples that the new ring holds, by age. -/
theorem Channel.keptSamples_getD (ch : Channel) (m : Memory) {n j : Nat} (h : j < n) :
    (ch.keptSamples m n).getD (n - 1 - j) 0 = ch.sampleOfAge m j := by
  rw [Channel.keptSamples, List.getD_eq_getElem _ _ (by simp; omega), List.getElem_map, List.getElem_range]
  congr 1
  omega

/-- The most recent samples stay, by age, in a ring of `256 * n` samples (R76). -/
theorem retunedPool_sampleOfAge {s : State} {ch : Channel} {r : Retune} (hwf : s.pool.wf = true) (hn : ch.pages.Nodup)
    (h0 : 1 ≤ ch.retunePages r) (hle : ch.retunePages r ≤ ch.pages.length)
    (hpages : (ch.retuned r).pages.length = ch.retunePages r) (j : Nat) :
    (ch.retuned r).sampleOfAge (ch.retunedPool s.pool r) j =
      if j < 256 * ch.retunePages r then ch.sampleOfAge s.pool j else 0 := by
  have hring : (ch.retuned r).ringLength = 256 * ch.retunePages r :=
    (congrArg (256 * ·) hpages : 256 * (ch.retuned r).pages.length = _)
  have hpos : 0 < 256 * ch.retunePages r := by omega
  have hlen : (ch.keptSamples s.pool (min ch.filled (256 * ch.retunePages r))).length =
      min ch.filled (256 * ch.retunePages r) := by simp [Channel.keptSamples]
  have hread (p : Nat) (hp : p < 256 * ch.retunePages r) :
      ringRead (ch.retunedPool s.pool r) (ch.retuned r).pages p =
        ringRead (ch.retunedPool s.pool r) ch.pages p :=
    ringRead_take (by rw [Nat.sub_sub_self hle]; exact hp)
  rw [Channel.sampleOfAge, hring]
  show (if j < min ch.filled (256 * ch.retunePages r) then ringRead _ _ ((min ch.filled (256 * ch.retunePages r) %
    (256 * ch.retunePages r) + 256 * ch.retunePages r - 1 - j) % (256 * ch.retunePages r)) else 0) = _
  by_cases hj : j < min ch.filled (256 * ch.retunePages r)
  · have hat : (min ch.filled (256 * ch.retunePages r) % (256 * ch.retunePages r) + 256 * ch.retunePages r - 1 - j) %
        (256 * ch.retunePages r) = min ch.filled (256 * ch.retunePages r) - 1 - j := by
      rw [agePosition_eq (Nat.mod_lt _ hpos) (by omega)]
      rcases Nat.lt_or_ge ch.filled (256 * ch.retunePages r) with h | h
      · rw [Nat.min_eq_left (Nat.le_of_lt h)] at hj ⊢
        rw [Nat.mod_eq_of_lt h, if_pos hj]
      · rw [Nat.min_eq_right h, Nat.mod_self, if_neg (Nat.not_lt_zero j), Nat.zero_add]
    have hage := Channel.keptSamples_getD ch s.pool hj
    have hkept : ch.retunedPool s.pool r =
        ringWriteFrom s.pool ch.pages 0 (ch.keptSamples s.pool (min ch.filled (256 * ch.retunePages r))) := rfl
    rw [if_pos hj, hat, hread _ (by omega), if_pos (by omega), hkept]
    refine (ringRead_ringWriteFrom hn _ hwf (by rw [hlen]; omega) _).trans ?_
    rw [hlen, if_pos (by omega)]
    exact hage
  · rw [if_neg hj]
    split
    · exact (if_neg (by omega)).symm
    · rfl

/-- A retune that is applied changes the record, the pool and the shared resources, and its requester is answered. -/
theorem State.applyRetune_spec {s : State} {c : Chan} {r : Retune} (hr : (s.chan c).retune = some r) :
    (s.retuned c r).SameButPorts (s.applyRetune c) ∧ ∀ i, (s.applyRetune c).port i =
      if r.requester = some i then
        (s.port i).completes .setFar (fieldOfChan c) .ok ((s.chan c).retuneBody r)
      else s.port i := by
  rw [State.applyRetune_eq hr]
  cases hq : r.requester with
  | none => exact ⟨.rfl' _, fun i => (if_neg nofun).symm⟩
  | some l =>
    refine ⟨State.answerOperation_sameButPorts .., fun i => ?_⟩
    show ((s.retuned c r).answerOperation l .setFar (fieldOfChan c) .ok ((s.chan c).retuneBody r)).port i = _
    rw [State.port_answerOperation]
    by_cases hi : i = l
    · subst hi
      rw [if_pos rfl, if_pos rfl]
      rfl
    · rw [if_neg hi, if_neg fun h => hi (Option.some_inj.mp h).symm]
      rfl

/-- The record after a retune that its pages can hold, with the gears by the table of R75. -/
theorem Channel.retuned_eq {ch : Channel} {r : Retune} (hle : ch.retunePages r ≤ ch.pages.length) :
    ch.retuned r = { ch with
      nf := r.nf, d := r.d, retune := none, charge := ch.nn + r.nf, pages := ch.pages.take (ch.retunePages r)
      filled := min ch.filled (256 * ch.retunePages r)
      writePos := min ch.filled (256 * ch.retunePages r) % (256 * ch.retunePages r)
      far := { ch.far with
        taps := (List.range r.nf).map fun i => if ch.d ≤ i + r.d then ch.far.taps.getD (i + r.d - ch.d) 0 else 0
        gear := if ch.state = .orphaned then (if resizedGear ch.nf r.nf ch.far.resume = .off then .off else .hold)
          else resizedGear ch.nf r.nf ch.far.gear
        resume := if ch.state = .orphaned then resizedGear ch.nf r.nf ch.far.resume else ch.far.resume } } := by
  rw [Channel.retuned, Nat.sub_sub_self hle, Channel.retunedFar, ← Gear.held_eq]
  by_cases ho : ch.state = .orphaned
  · simp only [if_pos ho]
    rfl
  · simp only [if_neg ho]
    rfl

/-- Settles O44. -/
theorem retuneShiftsTapsAndKeepsHistory : Obligations.RetuneShiftsTapsAndKeepsHistory := by
  intro c r s ch z ring t resized hpool hsound hn hstate hr
  have hwf : s.pool.wf = true := hpool.1
  have hruns : ch.state.runs = true := by rcases hstate with h | h | h <;> rw [h] <;> rfl
  obtain ⟨hnf, -⟩ := (Life.runs_iff _).mp hruns
  obtain ⟨-, -, -, hpagesSound, -⟩ := hsound
  obtain ⟨hlen, hone, hle⟩ := Channel.retuned_pages (hpagesSound hnf) hr
  obtain ⟨hsame, hports⟩ := State.applyRetune_spec hr
  have hchan : t.chan c = ch.retuned r := (hsame.chan c).trans (State.chan_setChan ..)
  have htpool : t.pool = ch.retunedPool s.pool r := hsame.pool
  refine ⟨hchan.trans (Channel.retuned_eq hle), fun j => ?_, fun a ha => ?_, hports, ?_, fun c' hc => ?_⟩
  · rw [hchan, htpool]
    exact retunedPool_sampleOfAge hwf hn hone hle hlen j
  · rw [htpool]
    exact read_ringWriteFrom_other hwf _ _ _ a ha
  · have hdrop : ch.pages.drop (ch.pages.length - (ch.pages.length - ch.retunePages r)) =
        ch.pages.drop z.pageCount := by rw [Nat.sub_sub_self hle]; rfl
    rw [← hdrop]
    exact congrArg (fun u : State => { u with channels := s.channels, pool := s.pool }) (hsame.with_links s.links)
  · exact (hsame.chan c').trans (State.chan_setChan_ne _ _ _ _ hc)

end Sys2Proof.Machine

/-! SUPPORT. The frame operation: the echo estimate and the tap update as sums over the taps, the leak, the power
estimates, and the order of the stages. -/

namespace Sys2Proof.Machine

/-! ### The estimate and the update, tap by tap (R47, R50, R51) -/

theorem dotTaps_eq_sum (age : Nat → Sample) (ts : List Tap) (k : Nat) :
    dotTaps age k ts = ((ts.zipIdx k).map fun t => t.1.toInt * (age t.2).toInt).sum := by
  induction ts generalizing k with
  | nil => rfl
  | cons t ts ih => rw [dotTaps, ih, List.zipIdx_cons, List.map_cons, List.sum_cons]

theorem updateTaps_eq_map (e : Int) (m : Nat) (age : Nat → Sample) (ts : List Tap) (k : Nat) :
    updateTaps e m age k ts =
      (ts.zipIdx k).map fun t => BitVec.ofInt 24 (clampTap (updateSum e m (age t.2) t.1)) := by
  induction ts generalizing k with
  | nil => rfl
  | cons t ts ih => rw [updateTaps, ih, List.zipIdx_cons, List.map_cons]

theorem clampsTaps_iff (e : Int) (m : Nat) (age : Nat → Sample) (ts : List Tap) (k : Nat) :
    clampsTaps e m age k ts = true ↔
      ∃ t ∈ ts.zipIdx k, clampTap (updateSum e m (age t.2) t.1) ≠ updateSum e m (age t.2) t.1 := by
  induction ts generalizing k with
  | nil => simp [clampsTaps]
  | cons t ts ih =>
    rw [clampsTaps, Bool.or_eq_true, decide_eq_true_iff, ih, List.zipIdx_cons]
    simp only [List.mem_cons, exists_eq_or_imp]

theorem Gear.contributes_eq (g : Gear) : g.contributes = decide (g ≠ .off) := by
  cases g <;> rfl

theorem Filter.accumulate_eq (f : Filter) (age : Nat → Sample) : f.accumulate age =
    if f.gear = .off then 0 else ((f.taps.zipIdx.map fun t => t.1.toInt * (age t.2).toInt) : List Int).sum := by
  rw [Filter.accumulate, Gear.contributes_eq, dotTaps_eq_sum]
  simp only [ne_eq, decide_not, Bool.not_eq_eq_eq_not, Bool.not_true, decide_eq_false_iff_not, ite_not]

theorem Filter.adapt_eq (f : Filter) (e : Int) (age : Nat → Sample) : f.adapt e age =
    { f with taps := f.taps.zipIdx.map fun t =>
        if f.gear = .train ∨ f.gear = .track then BitVec.ofInt 24 (clampTap (updateSum e f.step (age t.2) t.1))
        else t.1 } := by
  rw [Filter.adapt, updateTaps_eq_map]
  by_cases h : f.gear = .train ∨ f.gear = .track
  · simp only [if_pos h, if_pos (f.gear.adapts_iff.mpr h)]
  · simp only [if_neg h, if_neg (mt f.gear.adapts_iff.mp h), List.zipIdx_map_fst]

theorem Filter.clamps_iff (f : Filter) (e : Int) (age : Nat → Sample) : f.clamps e age = true ↔
    (f.gear = .train ∨ f.gear = .track) ∧ ∃ t ∈ f.taps.zipIdx,
      clampTap (updateSum e f.step (age t.2) t.1) ≠ updateSum e f.step (age t.2) t.1 := by
  rw [Filter.clamps, Bool.and_eq_true, Gear.adapts_iff, clampsTaps_iff]

/-! ### What a frame counts and latches (R49, R51) -/

/-- The record with what a saturated error and a clamped update count and latch. -/
def Channel.noted (ch : Channel) (clipped clamped : Bool) : Channel := (ch.noteClip clipped).noteClamp clamped

theorem Channel.noted_eq (ch : Channel) (clipped clamped : Bool) : ch.noted clipped clamped = { ch with
    flags := (ch.flags ||| if clipped then 32 else 0) ||| if clamped then 64 else 0
    cnt := { ch.cnt with
      clippedSamples := if clipped then ch.cnt.clippedSamples + 1 else ch.cnt.clippedSamples
      clampSamples := if clamped then stick16 ch.cnt.clampSamples else ch.cnt.clampSamples } } := by
  cases clipped <;> cases clamped <;> simp [Channel.noted, Channel.noteClip, Channel.noteClamp, Channel.latch, wrap32,
    Flag.index]

theorem noted_flag_clipped (v : BitVec 9) (clipped clamped : Bool) :
    (((v ||| if clipped then 32 else 0) ||| if clamped then 64 else 0) : BitVec 9).getLsbD 5 =
        (v.getLsbD 5 || clipped) := by
  cases clipped <;> cases clamped <;> simp

theorem noted_flag_clamped (v : BitVec 9) (clipped clamped : Bool) :
    (((v ||| if clipped then 32 else 0) ||| if clamped then 64 else 0) : BitVec 9).getLsbD 6 =
        (v.getLsbD 6 || clamped) := by
  cases clipped <;> cases clamped <;> simp

theorem noted_flag_other (v : BitVec 9) (clipped clamped : Bool) {f : Flag} (h5 : f ≠ .clipped) (h6 : f ≠ .tapClamped) :
    (((v ||| if clipped then 32 else 0) ||| if clamped then 64 else 0) : BitVec 9).getLsbD f.index =
        v.getLsbD f.index := by
  have h32 : (32#9).getLsbD f.index = false := by cases f <;> simp_all [Flag.index]
  have h64 : (64#9).getLsbD f.index = false := by cases f <;> simp_all [Flag.index]
  cases clipped <;> cases clamped <;> simp [BitVec.getLsbD_or, h32, h64]

/-- The record after the echo step, its sums written out. -/
theorem Channel.echo_noted (ch : Channel) (m : Memory) (y : Sample) :
    ch.echo m y = ({ ch with
      near := ch.near.adapt (ch.error m y) (ch.nearAge m), far := ch.far.adapt (ch.error m y) (ch.farAge m) }).noted
        (decide (ch.difference m y ≠ ch.error m y))
        (ch.near.clamps (ch.error m y) (ch.nearAge m) || ch.far.clamps (ch.error m y) (ch.farAge m)) := rfl

theorem Channel.estimate_eq (ch : Channel) (m : Memory) : ch.estimate m =
    (ch.near.accumulate (ch.nearAge m) + ch.far.accumulate (ch.farAge m) + 2097152) / 4194304 := rfl

theorem saturateSample_eq_max_min (x : Int) : saturateSample x = max (-32768) (min 32767 x) :=
  saturate_eq_max_min (by decide) x

/-- Settles O40. -/
theorem echoIsEstimatedAndTapsUpdated : Obligations.EchoIsEstimatedAndTapsUpdated := by
  intro ch m y near far part estimate exact e moved clamped adapts update clamps new
  have hestimate : ch.estimate m = estimate := by
    rw [Channel.estimate_eq, Filter.accumulate_eq, Filter.accumulate_eq]
    rfl
  have hexact : ch.difference m y = exact := by rw [Channel.difference, hestimate]
  have he : ch.error m y = e := by rw [Channel.error, hexact, saturateSample_eq_max_min]
  have hupdate (f : Filter) (age : Nat → Sample) : f.adapt e age = update f age := by
    rw [Filter.adapt_eq]
    simp only [clampTap_eq_max_min]
    rfl
  have hclamps (f : Filter) (age : Nat → Sample) : f.clamps e age = true ↔ clamps f age := by
    rw [Filter.clamps_iff]
    simp only [clampTap_eq_max_min]
    rfl
  have hor : (ch.near.clamps e (ch.nearAge m) || ch.far.clamps e (ch.farAge m)) = true ↔
      clamps ch.near near ∨ clamps ch.far far := by
    rw [Bool.or_eq_true, hclamps, hclamps]
    rfl
  refine ⟨he, ?_⟩
  have hecho : ch.echo m y = new.noted (decide (exact ≠ e))
      (ch.near.clamps e (ch.nearAge m) || ch.far.clamps e (ch.farAge m)) := by
    rw [Channel.echo_noted, he, hexact, hupdate, hupdate]
    rfl
  rw [Channel.noted_eq] at hecho
  generalize hc : (ch.near.clamps e (ch.nearAge m) || ch.far.clamps e (ch.farAge m)) = clamp at hor hecho
  refine ⟨_, _, hecho, fun f h5 h6 => noted_flag_other _ _ _ h5 h6, ?_, ?_, rfl, fun h => ?_, fun h => ?_, fun h => ?_,
    fun h => ?_⟩
  · rw [noted_flag_clipped, Bool.or_eq_true, decide_eq_true_iff]
  · rw [noted_flag_clamped, Bool.or_eq_true, hor]
  · exact if_pos (decide_eq_true h)
  · exact if_neg (by rw [decide_eq_true_iff]; exact not_not_intro h)
  · exact if_pos (hor.mpr h)
  · exact if_neg (mt hor.mp h)

/-! ### The leak and the power estimates (R53, R54, R55) -/

theorem tap_range (t : Tap) : -8388608 ≤ t.toInt ∧ t.toInt ≤ 8388607 := by
  have h1 := BitVec.le_toInt t
  have h2 := BitVec.toInt_lt (x := t)
  norm_num at h1 h2
  omega

/-- A number between 0 and a tap is a tap. -/
theorem toInt_ofInt_tap {x : Int} (h1 : -8388608 ≤ x) (h2 : x ≤ 8388607) : (BitVec.ofInt 24 x).toInt = x :=
  BitVec.toInt_ofInt_eq_self (by decide) (by norm_num; omega) (by norm_num; omega)

/-- A tap that is not negative loses its part, rounded down (R53). -/
theorem leakTap_nonneg {n : Nat} {t : Tap} (h : 0 ≤ t.toInt) :
    (leakTap n t).toInt = t.toInt - t.toInt / 2 ^ n ∧ 0 ≤ (leakTap n t).toInt ∧ (leakTap n t).toInt ≤ t.toInt := by
  have hq : t.toInt.tdiv (2 ^ n) = t.toInt / 2 ^ n := Int.tdiv_eq_ediv_of_nonneg h
  have h0 : 0 ≤ t.toInt / 2 ^ n := Int.ediv_nonneg h (by positivity)
  have h1 : t.toInt / 2 ^ n ≤ t.toInt := Int.ediv_le_self _ h
  obtain ⟨-, hr⟩ := tap_range t
  rw [leakTap, hq, toInt_ofInt_tap (by omega) (by omega)]
  omega

/-- A negative tap gains its part, rounded down in magnitude (R53). -/
theorem leakTap_neg {n : Nat} {t : Tap} (h : t.toInt < 0) :
    (leakTap n t).toInt = t.toInt + (-t.toInt) / 2 ^ n ∧ t.toInt ≤ (leakTap n t).toInt ∧ (leakTap n t).toInt ≤ 0 := by
  have hq : t.toInt.tdiv (2 ^ n) = -(-t.toInt / 2 ^ n) := by
    rw [← Int.tdiv_eq_ediv_of_nonneg (by omega), Int.neg_tdiv, neg_neg]
  have h0 : 0 ≤ -t.toInt / 2 ^ n := Int.ediv_nonneg (by omega) (by positivity)
  have h1 : -t.toInt / 2 ^ n ≤ -t.toInt := Int.ediv_le_self _ (by omega)
  obtain ⟨hr, -⟩ := tap_range t
  rw [leakTap, hq, toInt_ofInt_tap (by omega) (by omega)]
  omega

/-- A tap below 2^leak in magnitude stays. -/
theorem leakTap_small {n : Nat} {t : Tap} (h : |t.toInt| < 2 ^ n) : (leakTap n t).toInt = t.toInt := by
  rcases Int.lt_or_le t.toInt 0 with ht | ht
  · rw [abs_of_neg ht] at h
    rw [(leakTap_neg ht).1, Int.ediv_eq_zero_of_lt (by omega) h, add_zero]
  · rw [abs_of_nonneg ht] at h
    rw [(leakTap_nonneg ht).1, Int.ediv_eq_zero_of_lt ht h, sub_zero]

/-- A filter that does not adapt, or has no leak, keeps its taps. -/
theorem Filter.leaked_keeps {f : Filter} (h : f.gear = .off ∨ f.gear = .hold ∨ f.leak = 0) : f.leaked = f := by
  refine if_neg fun ⟨ha, hl⟩ => ?_
  rcases h with h | h | h
  · rw [h] at ha; cases ha
  · rw [h] at ha; cases ha
  · omega

theorem Filter.leaked_leaks {f : Filter} (h : f.gear = .train ∨ f.gear = .track) (hl : 0 < f.leak) :
    f.leaked = { f with taps := f.taps.map (leakTap f.leak) } :=
  if_pos ⟨f.gear.adapts_iff.mpr h, hl⟩

/-- Settles O41. -/
theorem leakAndPowerFollowTheirRules : Obligations.LeakAndPowerFollowTheirRules := by
  refine ⟨?_, ?_, ?_⟩
  · intro f i hi t t'
    have hform : f.leaked = { f with taps := f.leaked.taps } ∧ f.leaked.taps.length = f.taps.length := by
      unfold Filter.leaked
      split <;> simp
    obtain ⟨hrest, hlen⟩ := hform
    refine ⟨hrest, hlen, fun h => ?_, fun h hl => ?_⟩
    · show (f.leaked.taps.getD i 0).toInt = _
      rw [Filter.leaked_keeps h]
    · have ht' : t' = (leakTap f.leak (f.taps.getD i 0)).toInt := by
        show (f.leaked.taps.getD i 0).toInt = _
        rw [Filter.leaked_leaks h hl, List.getD_eq_getElem _ _ (by simpa using hi), List.getElem_map,
          List.getD_eq_getElem _ _ hi]
      rw [ht']
      exact ⟨leakTap_nonneg, leakTap_neg, leakTap_small⟩
  · intro ch y e h1 h2 hy he
    obtain ⟨y1, y2⟩ := sample_range y
    obtain ⟨hpy, hpyb⟩ := toNat_powerStep y1 y2 hy
    obtain ⟨hpe, hpeb⟩ := toNat_powerStep h1 h2 he
    obtain ⟨hy0, -⟩ := square_div_le y1 y2
    obtain ⟨he0, -⟩ := square_div_le h1 h2
    refine ⟨rfl, ?_, ?_, hpyb, hpeb⟩
    · have : (ch.power y e).py.toNat = _ := hpy
      omega
    · have : (ch.power y e).pe.toNat = _ := hpe
      omega
  · intro p er ei h1 h2 h3 h4 hp
    obtain ⟨hstep, hb⟩ := toNat_pepsStep h1 h2 h3 h4 hp
    obtain ⟨hr, -⟩ := square_div_le h1 h2
    obtain ⟨hi, -⟩ := square_div_le h3 h4
    exact ⟨by omega, hb⟩

/-! ### The order of the stages (R26 to R31) -/

theorem State.watermark_sameButPorts (s : State) (c : Chan) (d0 : Nat) : s.SameButPorts (s.watermark c d0) := by
  unfold State.watermark
  dsimp only
  split_ifs
  exacts [s.raise_sameButPorts c _ _, s.raise_sameButPorts c _ _, .rfl' s]

/-- The playout sample leaves the slot of its channel. -/
theorem State.slot_playoutSample (s : State) (c : Chan) : ((s.playoutSample c).1.chan c).slot = (s.chan c).slot := by
  have hstart : ((s.blockStart c).1.chan c).slot = (s.chan c).slot := by
    unfold State.blockStart
    dsimp only
    split
    · rw [(State.raise_sameButPorts _ c _ _).chan, State.chan_setChan]
      rfl
    · split <;> rw [(State.watermark_sameButPorts _ c _).chan, State.chan_setChan]
      rfl
  unfold State.playoutSample
  dsimp only
  split
  · rfl
  · split
    · rw [State.chan_setChan]
    · exact hstart
  · exact hstart

/-- The echo and power steps leave the assembling block and the next rx sequence number. -/
theorem Channel.echo_power_asm (ch : Channel) (m : Memory) (y : Sample) (e : Int) :
    ((ch.echo m y).power y e).asm = ch.asm ∧ ((ch.echo m y).power y e).nextRx = ch.nextRx := by
  obtain ⟨flags, cnt, h⟩ := ch.echo_eq m y
  rw [h]
  exact ⟨rfl, rfl⟩

/-- Stages 2 to 7 of a channel with a slot: within a block, and with its 16th sample. -/
theorem State.frameStages_eq {s : State} {c : Chan} {slot : Slot} (hs : (s.chan c).slot = some slot) (x y : Sample) :
    let written := s.writeHistory c x
    let ch := written.chan c
    let e := ch.error written.pool y
    let block := ch.asm ++ [BitVec.ofInt 16 e]
    let driven := { written with outbound := written.outbound.set slot (some x) }
    let updated := (ch.echo written.pool y).power y e
    s.frameStages c x y =
      if 16 ≤ block.length then (driven.setChan c updated).blockBoundary c block
      else driven.setChan c { updated with asm := block } := by
  intro written ch e block driven updated
  have hdrive : written.drive (s.chan c).slot x = driven := by rw [hs]; rfl
  have hasm : ((driven.setChan c updated).chan c).asm = ch.asm := by
    rw [State.chan_setChan]
    exact (ch.echo_power_asm written.pool y e).1
  have happend : s.frameStages c x y = (driven.setChan c updated).appendError c (BitVec.ofInt 16 e) := by
    unfold State.frameStages
    dsimp only
    rw [show (s.writeHistory c x).drive (s.chan c).slot x = driven from hdrive]
    rfl
  rw [happend, State.appendError, hasm, State.updChan, State.chan_setChan, State.setChan_setChan]

/-- Settles O42. -/
theorem frameOperationRunsItsStages : Obligations.FrameOperationRunsItsStages := by
  intro c inbound slot s played line x y written ch e block driven updated hslot
  have hplayed : (played.1.chan c).slot = some slot := (s.slot_playoutSample c).trans hslot
  have hline : (s.chan c).inboundOf inbound = line := by rw [Channel.inboundOf, hslot]; rfl
  have hop : State.frameOp inbound s c = played.1.frameStages c x y := by
    unfold State.frameOp
    rw [hline]
    cases hl : (s.chan c).loopback <;> simp [x, y, played, hl]
  have hstages := State.frameStages_eq hplayed x y
  rw [hop, hstages]
  refine ⟨fun h => if_neg (Nat.not_le_of_lt h), fun h => (if_pos h).trans ?_⟩
  have hseq : ((driven.setChan c updated).chan c).nextRx = ch.nextRx := by
    rw [State.chan_setChan]
    exact (ch.echo_power_asm written.pool y e).2
  exact congrArg (fun q => (((((((driven.setChan c updated).closeRxBlock c block).updChan c
    Channel.leakStep).convergeStep c).divergeStep c).applyRetune c).watchStep c q)) hseq

end Sys2Proof.Machine

/-! SUPPORT. The highway monitor and the work of a frame arrival. -/

namespace Sys2Proof.Machine

/-! ### The monitor (R23 to R25) -/

theorem onTime_iff (expected t : Nat) : onTime expected t = true ↔ expected ≤ t + 8 ∧ t ≤ expected + 8 := by
  rw [onTime, decide_eq_true_iff]
  rfl

/-- FRAME_SYNC and FRAME_ARRIVAL are one event to the monitor. -/
theorem exec_sync {i : Instr} {t : Nat} {inbound : Vector Sample 64} (h :
    i = .frameSync t inbound ∨ i = .frameArrival t inbound)
    (s : State) : exec i s = .next (s.sync t inbound) := by
  rcases h with rfl | rfl <;> rfl

theorem State.sync_held {s : State} (h : s.pin = true) (t : Nat) (inbound : Vector Sample 64) : s.sync t inbound = s :=
  if_pos h

theorem State.sync_absent {s : State} (hp : s.pin = false) (hl : s.locked = false) (t : Nat) (inbound :
    Vector Sample 64) :
    s.sync t inbound = s.syncAbsent t := by
  rw [State.sync, if_neg (by rw [hp]; nofun), if_neg (by rw [hl]; nofun)]

theorem State.sync_locked {s : State} {r : Nat} (hp : s.pin = false) (hl : s.locked = true) (hr : s.reference = some r)
    (t : Nat) (inbound : Vector Sample 64) : s.sync t inbound =
      if onTime r t then { s with missedRun := 0, reference := some (t + 2048) }.runFrame inbound else s := by
  rw [State.sync, if_neg (by rw [hp]; nofun), if_pos hl, State.syncLocked, hr]
  rfl

/-- A sync while the monitor is ABSENT that its window does not hold starts a run of 1. -/
theorem State.syncAbsent_first {s : State} {t : Nat} (h : ¬ ∃ r, s.reference = some r ∧ r + 2040 ≤ t ∧ t ≤ r + 2056) :
    s.syncAbsent t = { s with goodRun := 1, reference := some t } := by
  unfold State.syncAbsent
  cases hr : s.reference with
  | none => rfl
  | some r =>
    refine if_neg fun hon => h ⟨r, hr, ?_⟩
    have := (onTime_iff (r + 2048) t).mp hon
    omega

theorem State.syncAbsent_good {s : State} {t : Nat} (h : ∃ r, s.reference = some r ∧ r + 2040 ≤ t ∧ t ≤ r + 2056) :
    s.syncAbsent t = s.goodSync t := by
  obtain ⟨r, hr, hlo, hhi⟩ := h
  rw [State.syncAbsent, hr]
  exact if_pos ((onTime_iff (r + 2048) t).mpr ⟨by omega, by omega⟩)

/-- A window that closes without a sync, by the monitor's state. -/
theorem State.windowClosed_absent {s : State} (hp : s.pin = false) (hl : s.locked = false) :
    s.windowClosed = { s with goodRun := 0, reference := none } := by
  rw [State.windowClosed, if_neg (by rw [hp]; nofun), if_neg (by rw [hl]; nofun)]

theorem State.windowClosed_locked {s : State} (hp : s.pin = false) (hl : s.locked = true) :
    s.windowClosed =
      if 2 ≤ s.missedRun + 1 then
        { s.undrive with locked := false, goodRun := 0, missedRun := 0, reference := none }.notifyDevice .highwayLost
      else { s.undrive with missedRun := s.missedRun + 1, reference := s.reference.map (· + 2048) } := by
  rw [State.windowClosed, if_neg (by rw [hp]; nofun), if_pos hl]
  rfl

/-- Settles O51. -/
theorem eightGoodSyncsLockTheMonitor : Obligations.EightGoodSyncsLockTheMonitor := by
  intro i t inbound s hi good
  rw [exec_sync hi]
  refine ⟨fun hp => ⟨?_, ?_⟩, fun hp hl => ⟨fun hbad => ?_, fun hgood hrun => ?_, fun hgood hrun => ?_, ?_⟩⟩
  · rw [State.sync_held hp]
  · exact congrArg Host.Outcome.next (if_pos hp)
  · rw [State.sync_absent hp hl, State.syncAbsent_first hbad]
  · rw [State.sync_absent hp hl, State.syncAbsent_good hgood]
    exact congrArg Host.Outcome.next (if_neg (by omega))
  · have hlock : s.sync t inbound = s.lock t := by
      rw [State.sync_absent hp hl, State.syncAbsent_good hgood]
      exact if_pos (by omega)
    exact ⟨s.lock t, by rw [hlock], (State.notifyDevice_sameButPorts _ _).with_links s.links,
      fun l => State.port_notifyDevice _ _ l⟩
  · exact congrArg Host.Outcome.next (State.windowClosed_absent hp hl)

/-! ### The slots of a frame (R31) -/

/-- The slots after the idle values of a list of channels have been driven. -/
def driveIdle (s : State) (cs : List Chan) (u : State) : State :=
  cs.foldl (fun u c => u.drive (s.chan c).slot (s.chan c).idle) u

theorem State.drive_rest (s : State) (slot : Option Slot) (x : Sample) (out : Vector (Option Sample) 64) :
    { s.drive slot x with outbound := out } = { s with outbound := out } := by
  cases slot <;> rfl

theorem State.outbound_drive_ite (s : State) (slot : Option Slot) (x : Sample) (k : Slot) :
    (s.drive slot x).outbound[k] = if slot = some k then some x else s.outbound[k] := by
  cases slot with
  | none => exact (if_neg nofun).symm
  | some j =>
    show (s.outbound.set j.val (some x))[k.val] = _
    rw [Vector.getElem_set]
    exact if_congr (by rw [Option.some_inj, Fin.ext_iff]) rfl rfl

theorem driveIdle_rest (s : State) (cs : List Chan) (u : State) (out : Vector (Option Sample) 64) :
    { driveIdle s cs u with outbound := out } = { u with outbound := out } := by
  induction cs generalizing u with
  | nil => rfl
  | cons c cs ih => exact (ih _).trans (u.drive_rest _ _ out)

/-- A slot that no channel of the list has keeps what it carries. -/
theorem driveIdle_other {s : State} {cs : List Chan} {k : Slot} (h : ∀ c ∈ cs, (s.chan c).slot ≠ some k) (u : State) :
    (driveIdle s cs u).outbound[k] = u.outbound[k] := by
  induction cs generalizing u with
  | nil => rfl
  | cons c cs ih =>
    refine (ih (fun c' hc' => h c' (List.mem_cons_of_mem _ hc')) _).trans ?_
    exact (State.outbound_drive_ite ..).trans (if_neg (h c List.mem_cons_self))

/-- The slot of a channel of the list carries its idle value, slots being of one channel each. -/
theorem driveIdle_own {s : State} {cs : List Chan} {k : Slot} {c : Chan} (hc : c ∈ cs) (hk : (s.chan c).slot = some k)
    (hone : ∀ c', (s.chan c').slot = some k → c' = c) (u : State) :
    (driveIdle s cs u).outbound[k] = some (s.chan c).idle := by
  induction cs generalizing u with
  | nil => cases hc
  | cons x cs ih =>
    by_cases hin : c ∈ cs
    · exact ih hin _
    · have hx : c = x := (List.mem_cons.mp hc).resolve_right hin
      subst hx
      refine (driveIdle_other (fun c' hc' hk' => hin (hone c' hk' ▸ hc')) _).trans ?_
      exact (State.outbound_drive_ite ..).trans (if_pos hk)

/-- The fold of the model reads each channel where the slots have changed, which no record shows. -/
theorem openingChans_foldl (s : State) (cs : List Chan) (u : State) (h : ∀ c, u.chan c = s.chan c) :
    cs.foldl (fun u c => u.drive (u.chan c).slot (u.chan c).idle) u = driveIdle s cs u := by
  induction cs generalizing u with
  | nil => rfl
  | cons c cs ih =>
    rw [List.foldl_cons, h c]
    refine ih _ fun c' => ?_
    rw [← h c']
    cases (s.chan c).slot <;> rfl

theorem State.mem_openingChans {s : State} {c : Chan} :
    c ∈ s.openingChans ↔ s.clear = .none ∧ (s.chan c).state = .opening := by
  unfold State.openingChans
  by_cases hm : s.mark = true
  · have hc : s.clear ≠ .none := by simpa [State.mark] using hm
    simp [hm, hc]
  · have hc : s.clear = .none := State.mark_eq_false.mp (by simpa using hm)
    simp [hm, hc, allChans]

theorem State.mem_runningChans {s : State} {c : Chan} : c ∈ s.runningChans ↔ s.clear = .none ∧
    ((s.chan c).state = .active ∨ (s.chan c).state = .handoverPending ∨ (s.chan c).state = .orphaned) := by
  have hruns : (s.chan c).state.runs = true ↔
      (s.chan c).state = .active ∨ (s.chan c).state = .handoverPending ∨ (s.chan c).state = .orphaned := by
    cases (s.chan c).state <;> simp [Life.runs]
  unfold State.runningChans
  by_cases hm : s.mark = true
  · have hc : s.clear ≠ .none := by simpa [State.mark] using hm
    simp [hm, hc]
  · have hc : s.clear = .none := State.mark_eq_false.mp (by simpa using hm)
    simp [hm, hc, allChans, hruns]

theorem State.runningChans_nodup (s : State) : s.runningChans.Nodup := by
  unfold State.runningChans
  split
  · exact List.nodup_nil
  · exact (List.nodup_finRange 48).filter _

/-- What the outbound slots carry in a frame: the idle values of the OPENING channels (R31). -/
def State.idleSlots (s : State) : Vector (Option Sample) 64 :=
  Vector.ofFn fun k => match s.slotMap[k] with
    | some c => if s.clear = .none ∧ (s.chan c).state = .opening then some (s.chan c).idle else none
    | none => none

theorem driveIdle_openingChans {s : State} (hacc : s.AccountsSound) :
    driveIdle s s.openingChans s.undrive = { s with outbound := s.idleSlots } := by
  obtain ⟨-, -, -, hmap, -⟩ := hacc
  have hslots : (driveIdle s s.openingChans s.undrive).outbound = s.idleSlots := by
    refine Vector.ext fun i hi => ?_
    have hother : (∀ c ∈ s.openingChans, (s.chan c).slot ≠ some ⟨i, hi⟩) →
        (driveIdle s s.openingChans s.undrive).outbound[i] = none := fun h =>
      (driveIdle_other (k := ⟨i, hi⟩) h s.undrive).trans (by simp [State.undrive])
    rw [State.idleSlots, Vector.getElem_ofFn]
    cases hm : s.slotMap[i] with
    | none =>
      refine (hother fun c _ hk => ?_).trans (by simp)
      rw [(hmap ⟨i, hi⟩ c).mpr hk] at hm
      cases hm
    | some c =>
      have hk : (s.chan c).slot = some ⟨i, hi⟩ := (hmap ⟨i, hi⟩ c).mp hm
      have hone (c' : Chan) (hc' : (s.chan c').slot = some ⟨i, hi⟩) : c' = c :=
        Option.some_inj.mp (((hmap ⟨i, hi⟩ c').mpr hc').symm.trans hm)
      by_cases hopen : s.clear = .none ∧ (s.chan c).state = .opening
      · refine (driveIdle_own (k := ⟨i, hi⟩) (State.mem_openingChans.mpr hopen) hk hone s.undrive).trans ?_
        simp [hopen]
      · refine (hother fun c' hc' hk' => hopen ?_).trans (by simp [hopen])
        rw [← hone c' hk']
        exact State.mem_openingChans.mp hc'
  rw [← hslots]
  exact (driveIdle_rest s s.openingChans s.undrive (driveIdle s s.openingChans s.undrive).outbound :)

theorem State.runFrame_eq {s : State} (hacc : s.AccountsSound) (inbound : Vector Sample 64) :
    s.runFrame inbound = s.frameOrder.foldl (State.frameOp inbound)
      { s with outbound := s.idleSlots, freeCount := s.freeCount + 1 } := by
  have h := (openingChans_foldl s s.openingChans s.undrive fun _ => rfl).trans (driveIdle_openingChans hacc)
  rw [State.runFrame, h]

/-- Settles O52. -/
theorem lockedMonitorRunsFramesOnTime : Obligations.LockedMonitorRunsFramesOnTime := by
  intro i t r inbound s hi hp hl hr idle none'
  rw [exec_sync hi, State.sync_locked hp hl hr]
  refine ⟨fun hlo hhi hacc => ?_, fun hoff => ?_, fun hm => ?_, fun hm => ?_⟩
  · refine ⟨s.frameOrder, (sortByKey_perm _ _).nodup_iff.mpr s.runningChans_nodup, fun c => ?_, ?_⟩
    · exact (sortByKey_perm _ _).mem_iff.trans State.mem_runningChans
    · rw [if_pos ((onTime_iff r t).mpr ⟨hlo, hhi⟩), State.runFrame_eq]
      · rfl
      · exact hacc
  · refine congrArg Host.Outcome.next (if_neg fun hon => ?_)
    have := (onTime_iff r t).mp hon
    omega
  · refine congrArg Host.Outcome.next ((State.windowClosed_locked hp hl).trans ?_)
    rw [if_neg (by omega), hm, hr]
    rfl
  · have hlost := (State.windowClosed_locked hp hl).trans (if_pos (by omega))
    refine ⟨_, congrArg Host.Outcome.next hlost, (State.notifyDevice_sameButPorts _ _).with_links s.links,
      fun l => State.port_notifyDevice _ _ l⟩

end Sys2Proof.Machine

/-! SUPPORT. Links that change their state, and the resets. -/

namespace Sys2Proof.Machine

/-! ### Malformed headers and RESYNC (R130, R131) -/

theorem State.updPort_eq_setPort (s : State) (l : Link) (f : LinkPort → LinkPort) :
    s.updPort l f = s.setPort l (f (s.port l)) := rfl

theorem LinkPort.malformed_up {p : LinkPort} (h : p.state = .up) : p.malformed = { p with
    malformedMessages := stick16 p.malformedMessages
    malformedRun := if 3 ≤ p.malformedRun then 0 else p.malformedRun + 1
    state := if 3 ≤ p.malformedRun then .outOfStep else .up
    framing := if 3 ≤ p.malformedRun then .unaligned 0 else .header, part := [] } := by
  by_cases hr : 3 ≤ p.malformedRun
  · have hr' : 4 ≤ p.malformedRun + 1 := by omega
    simp only [LinkPort.malformed, if_pos hr', if_pos hr]
  · have hr' : ¬ 4 ≤ p.malformedRun + 1 := by omega
    simp only [LinkPort.malformed, if_neg hr', if_neg hr, ← h]
    rfl

theorem LinkPort.resynced_eq (p : LinkPort) : p.resynced = { p with
    state := .up, framing := .extended, part := [], malformedRun := 0, timer := decide (p.setting ≠ 0)
    tx := if p.state = .down then .resyncPair else p.tx } := by
  unfold LinkPort.resynced
  cases p.state <;> rfl

/-- Settles O49. -/
theorem linksGoUpAndOutOfStep : Obligations.LinksGoUpAndOutOfStep := by
  intro l s p
  refine ⟨fun hp hup => ?_, fun hp => ?_, fun h => ?_, fun hp => if_pos hp⟩
  · refine (if_pos ((s.listens_iff l).mpr ⟨hp, hup⟩)).trans ?_
    rw [State.updPort_eq_setPort, LinkPort.malformed_up hup]
  · refine (if_neg (by rw [hp]; nofun)).trans ?_
    rw [State.updPort_eq_setPort, LinkPort.resynced_eq]
  · exact if_neg (by rw [State.not_listens h]; nofun)

/-! ### RESET_DEVICE (R139, R140) -/

theorem Channel.heldByOther_iff (ch : Channel) (l : Link) : ch.heldByOther l = true ↔
    (ch.state = .active ∨ ch.state = .handoverPending ∨ ch.state = .opening) ∧ ∃ h, ch.holder = some h ∧ h ≠ l := by
  unfold Channel.heldByOther
  cases ch.state <;> cases ch.holder <;> simp

/-- Of a port's entries, only the one that has just entered its free place has that place. -/
theorem LinkPort.intake_filter_entered {p : LinkPort} {k : Fin 4} (h : p.freePlace = some k) (m : CmdMsg) :
    (p.entered k m .waiting).intake.filter (fun e => some e.place == some k) =
      [{ place := k, msg := m, state := .waiting }] := by
  have hold : p.intake.filter (fun e => some e.place == some k) = [] := by
    rw [List.filter_eq_nil_iff]
    intro e he
    simpa using LinkPort.place_free h e he
  show (p.intake ++ [_]).filter _ = _
  rw [List.filter_append, hold]
  simp

/-- The port of the requester of a reset: its own entry alone is left, IN_PROGRESS. -/
theorem LinkPort.deviceReset_entered {p : LinkPort} {k : Fin 4} (h : p.freePlace = some k) (m : CmdMsg) :
    ((p.entered k m .waiting).deviceReset (some k)).markEntry k .inProgress =
      { p.heard.clearCounters with
        intake := [{ place := k, msg := m, state := .inProgress }]
        responses := [], notices := [], lost := 0, tx := p.tx.detached, jobs := [], ready := [], watch := none
        watchData := none } := by
  have hintake : ((p.entered k m .waiting).deviceReset (some k)).intake =
      [{ place := k, msg := m, state := .waiting }] := LinkPort.intake_filter_entered h m
  unfold LinkPort.markEntry
  rw [hintake]
  simp only [List.map_cons, List.map_nil, if_true]
  rfl

theorem LinkPort.deviceReset_none (p : LinkPort) : p.deviceReset none = { p.clearCounters with
    intake := [], responses := [], notices := [], lost := 0, tx := p.tx.detached, jobs := [], ready := [], watch := none
    watchData := none } := by
  have : p.intake.filter (fun e => some e.place == none) = [] := by simp
  rw [LinkPort.deviceReset, this]

theorem Tx.detached_eq (t : Tx) : t.detached = match t with
    | .sending (.response r) => .sending (.response { r with entry := none })
    | .sending (.eqOut tag chan r _) => .sending (.eqOut tag chan r none)
    | x => x := by
  cases t with
  | sending m => cases m <;> rfl
  | idle | resyncPair => rfl

theorem takeResetDevice_eq (l : Link) (k : Fin 4) (tag : Tag) (s : State) :
    takeResetDevice l k { kind := .resetDevice, chan := 63, tag := tag, payload := [] } s =
      if ∃ c, (s.chan c).heldByOther l = true then refuse s .inUse else (s.acceptReset l k, .started) := by
  have hany : (allChans.any fun c => (s.chan c).heldByOther l) = true ↔ ∃ c, (s.chan c).heldByOther l = true := by
    simp [List.any_eq_true, mem_allChans]
  simp only [takeResetDevice, ne_eq, not_true_eq_false, if_false, hany]

/-- Settles O53. -/
theorem resetDeviceStopsThePart : Obligations.ResetDeviceStopsThePart := by
  intro l k tag s m held emptied hs
  have hheld : held ↔ ∃ c, ((s.received l k m).chan c).heldByOther l = true := by
    simp only [State.chan_received, Channel.heldByOther_iff]
    rfl
  refine ⟨fun h => ?_, fun h => ?_⟩
  · exact exec_refused (i := .resetDevice l 63 tag) rfl hs
      ((takeResetDevice_eq l k tag _).trans (if_pos (hheld.mp h)))
  · have htake : taking (.resetDevice l 63 tag) l k m (s.received l k m) =
        ((s.received l k m).acceptReset l k, .started) :=
      (takeResetDevice_eq l k tag _).trans (if_neg (mt hheld.mpr h))
    obtain ⟨hrest, hchan, hport⟩ := (s.received l k m).acceptReset_spec l k
    have hexec : exec (.resetDevice l 63 tag) s =
        .next (((s.received l k m).acceptReset l k).settle l k m .started) := by
      rw [exec_served (i := .resetDevice l 63 tag) rfl hs, htake]
    generalize (s.received l k m).acceptReset l k = u at hrest hchan hport hexec
    refine ⟨u.updPort l (·.markEntry k .inProgress), hexec, ?_, hchan, fun i => ?_⟩
    · exact congrArg (fun v : State => { v with channels := s.channels, links := s.links }) hrest.symm
    · have hdetached (p : LinkPort) := Tx.detached_eq p.tx
      rw [State.port_updPort_ite]
      by_cases hi : i = l
      · subst hi
        rw [if_pos rfl, if_pos rfl, hport, if_pos rfl, State.received, State.port_updPort,
          LinkPort.deviceReset_entered hs.freePlace, hdetached]
        rfl
      · rw [if_neg hi, if_neg hi, hport, if_neg hi, State.received, State.port_updPort_ne _ _ _ _ hi,
          LinkPort.deviceReset_none, hdetached]
        rfl

/-! ### The clears, power-on and the reset pin (R22, R142, R143) -/

/-- Every port is answered the RESET_DEVICE that it still holds. -/
theorem State.port_answerReset (s : State) :
    s.SameButPorts (allLinks.foldl (fun s l => s.answerOperation l .resetDevice 63 .ok []) s) ∧
    ∀ i, (allLinks.foldl (fun s l => s.answerOperation l .resetDevice 63 .ok []) s).port i =
      (s.port i).completes .resetDevice 63 .ok [] := by
  have hfold : (fun (s : State) l => s.answerOperation l .resetDevice 63 .ok []) =
      fun s l => s.updPort l (·.completes .resetDevice 63 .ok []) := by
    funext s l
    exact s.answerOperation_eq ..
  obtain ⟨hsame, hport⟩ := State.foldl_updPort (fun _ p => p.completes .resetDevice 63 .ok []) allLinks allLinks_nodup s
  rw [hfold]
  exact ⟨hsame, fun i => (hport i).trans (if_pos (mem_allLinks i))⟩

/-- Settles O54. -/
theorem clearsAndPowerOnLeaveTheResetValues : Obligations.ClearsAndPowerOnLeaveTheResetValues := by
  refine ⟨?_, ?_⟩
  · intro s cleared
    refine ⟨fun h => ?_, fun h => if_pos h, fun h => if_neg h, fun h => if_neg h⟩
    obtain ⟨hsame, hport⟩ := s.clearedContexts.port_answerReset
    refine ⟨_, if_pos h, (hsame.trans (State.notifyDevice_sameButPorts _ _)).symm, fun i => ?_⟩
    rw [State.port_notifyDevice, hport]
    rfl
  · intro s fresh
    exact ⟨rfl, rfl, fun h => if_pos h, fun h => if_neg (by rw [h]; nofun)⟩

/-! ### A link goes DOWN (R133, R135) -/

/-- A record without a link in its rx queue, its retune, its offer and its copies, the holder apart. -/
def Channel.freedOf (ch : Channel) (l : Link) : Channel := ((ch.unqueued l).unoffered l).clearShadow l

theorem editQueue_ne (l : Link) (q : List RxEntry) : editQueue (· != l) q =
    (q.map fun e => { e with due := e.due.filter fun i => decide (i ≠ l) }).filter fun e => decide (e.due ≠ []) := by
  have hne : (fun i => i != l) = fun i => decide (i ≠ l) := funext fun i => by rw [bne, beq_eq_decide, decide_not]
  rw [editQueue_eq, hne]

theorem Channel.freedOf_eq (ch : Channel) (l : Link) :
    let lost := (ch.offer.map Offer.target) = some l
    let saved := if ch.saved = some l then none else ch.saved
    let copy := if lost then saved else ch.copy
    ch.freedOf l = { ch with
      rxq := (ch.rxq.map fun e => { e with due := e.due.filter fun i => decide (i ≠ l) }).filter
        fun e => decide (e.due ≠ [])
      retune := ch.retune.map fun r => { r with requester := if r.requester = some l then none else r.requester }
      state := if lost ∧ ch.state = .handoverPending then .active else ch.state
      offer := if lost then none else ch.offer
      copy := if (lost ∨ ch.offer = none) ∧ copy = some l then none else copy
      saved := if lost then none else saved } := by
  intro lost saved copy
  have hsaved : saved ≠ some l := by
    show (if ch.saved = some l then none else ch.saved) ≠ some l
    split
    · nofun
    · assumption
  unfold Channel.freedOf Channel.unoffered
  by_cases hlost : lost
  · have hlost' : ((ch.unqueued l).offer.map Offer.target) = some l := hlost
    rw [if_pos hlost', Channel.targetDown]
    rcases (({ ch.unqueued l with saved := saved } : Channel).endOffer).backToActive_cases with ⟨hs, hb⟩ | ⟨hs, hb⟩
    · have hs : ch.state = .handoverPending := hs
      rw [show (if (ch.unqueued l).saved = some l then none else (ch.unqueued l).saved) = saved from rfl, hb]
      simp [Channel.clearShadow, Channel.endOffer, Channel.unqueued, editQueue_ne, hlost, hs, copy, hsaved]
      rfl
    · have hs : ch.state ≠ .handoverPending := hs
      rw [show (if (ch.unqueued l).saved = some l then none else (ch.unqueued l).saved) = saved from rfl, hb]
      simp [Channel.clearShadow, Channel.endOffer, Channel.unqueued, editQueue_ne, hlost, hs, copy, hsaved]
      rfl
  · have hlost' : ¬ ((ch.unqueued l).offer.map Offer.target) = some l := hlost
    rw [if_neg hlost']
    simp [Channel.clearShadow, Channel.unqueued, editQueue_ne, hlost, copy]
    exact ⟨rfl, rfl⟩

/-- The loss of the holder leaves what the notice ORPHANED tells. -/
theorem Channel.unheld_offer (ch : Channel) (l : Link) :
    (ch.unheld l).offer = ch.offer ∧ (ch.unheld l).play = ch.play ∧ (ch.unheld l).nextRx = ch.nextRx := by
  unfold Channel.unheld
  split_ifs <;> exact ⟨rfl, rfl, rfl⟩

/-- Settles O50. -/
theorem silenceTakesTheLinkDown : Obligations.SilenceTakesTheLinkDown := by
  intro l s p held freed after notices
  have hfreed (ch : Channel) : ch.freedOf l = freed ch := ch.freedOf_eq l
  have hheld (f : Filter) : f.orphanHold = held f := by
    rw [Filter.orphanHold, Gear.held_eq]
  have hafter (ch : Channel) : ch.lostLink l = after ch := by
    show (ch.freedOf l).unheld l = _
    rw [hfreed]
    show (if ch.holder = some l then _ else _) = _
    simp only [Channel.orphanHold, hheld]
    rfl
  have hnotices (i : Link) (c : Chan) : (s.chan c).lostNotices c l i = notices i c := by
    have hbody : ((s.chan c).lostLink l).orphanedNotice c (some l) =
        { chan := fieldOfChan c
          body := .orphaned (some l) ((freed (s.chan c)).offer.map Offer.target) (s.chan c).play.e (s.chan c).nextRx } := by
      obtain ⟨ho, hplay, hnext⟩ := (freed (s.chan c)).unheld_offer l
      show (((s.chan c).freedOf l).unheld l).orphanedNotice c (some l) = _
      rw [hfreed, Channel.orphanedNotice, ho, hplay, hnext]
    rw [Channel.lostNotices, hbody]
  refine ⟨fun hup htimer => ?_, fun h => if_neg ?_⟩
  · obtain ⟨hrest, hchan, hport, hother⟩ := s.linkDown_spec l
    refine ⟨s.linkDown l, if_pos ⟨hup, htimer⟩, ?_, hport, fun c => (hchan c).trans (hafter _), fun i hi => ?_⟩
    · have hheldBy : (s.held.filter fun h => h.link != l) = s.held.filter fun h => decide (h.link ≠ l) :=
        List.filter_congr fun h _ => by rw [bne, beq_eq_decide, decide_not]
      rw [← hheldBy]
      exact congrArg (fun u : State => { u with channels := s.channels, links := s.links }) hrest.symm
    · rw [hother i hi]
      simp only [hnotices]
      rfl
  · rintro ⟨hup, htimer⟩
    rcases h with h | h
    · exact hup h
    · rw [h] at htimer; cases htimer

end Sys2Proof.Machine

/-! SUPPORT. Service in turn: the link transmitter, the completion of a message, and the engine's choice of a job. -/

namespace Sys2Proof.Machine

/-! ### The first in a cyclic order -/

/-- The first member of a cyclic order with a property, its predecessors being without it. -/
theorem find?_map_finRange {α : Type} {k : Nat} (f : Fin k → α) (p : α → Bool) {n : Fin k} (hn : p (f n) = true)
    (hbefore : ∀ d : Fin k, d < n → p (f d) = false) : ((List.finRange k).map f).find? p = some (f n) := by
  rw [List.find?_eq_some_iff_getElem]
  refine ⟨hn, n.val, by simp, by simp, fun j hj => ?_⟩
  have := hbefore ⟨j, by omega⟩ hj
  simpa using this

theorem allLinks_eq_finRange : allLinks = List.finRange 4 := by decide

/-! ### The engine's choice (R98) -/

theorem LinkPort.oldestQueued_eq (p : LinkPort) :
    p.oldestQueued = (p.jobs.filter fun j => decide (j.state = .queued)).head? := List.head?_filter.symm

theorem State.chooseJob_busy {s : State} (h : s.engine ≠ none) : s.chooseJob = s := by
  unfold State.chooseJob
  cases he : s.engine with
  | none => exact absurd he h
  | some j => rfl

/-- The idle engine takes the oldest QUEUED job of the first link in turn that has one. -/
theorem State.chooseJob_takes {s : State} {n : Link} {j : Job} {c : Chan} (he : s.engine = none)
    (hbefore : ∀ d, d < n → (s.port (s.eqLast + 1 + d)).oldestQueued = none)
    (hj : (s.port (s.eqLast + 1 + n)).oldestQueued = some j) (hc : chanOf j.chan = some c) :
    s.chooseJob = s.startJob (s.eqLast + 1 + n) j c := by
  have hfind : (linkOrder s.eqLast).find? (fun l => (s.port l).oldestQueued.isSome) = some (s.eqLast + 1 + n) := by
    rw [linkOrder, allLinks_eq_finRange]
    exact find?_map_finRange (fun i => s.eqLast + 1 + i) _ (by rw [hj]; rfl) fun d hd => by rw [hbefore d hd]; rfl
  simp only [State.chooseJob, he, hfind, hj, hc]

theorem State.chooseJob_nothing {s : State} (h : ∀ l, (s.port l).oldestQueued = none) : s.chooseJob = s := by
  have hfind : (linkOrder s.eqLast).find? (fun l => (s.port l).oldestQueued.isSome) = none :=
    List.find?_eq_none.mpr fun l _ => by simp [h l]
  unfold State.chooseJob
  rw [hfind]
  cases s.engine <;> rfl

/-- Settles O27. -/
theorem jobStartTakesTheNextLinksOldestJob : Obligations.JobStartTakesTheNextLinksOldestJob := by
  intro s queued
  have holdest (l : Link) : (s.port l).oldestQueued = (queued l).head? := LinkPort.oldestQueued_eq _
  refine ⟨fun n c j js he hbefore hqueued hchan => ?_, fun h => congrArg Host.Outcome.next ?_⟩
  · have hchoose : s.chooseJob = s.startJob (s.eqLast + 1 + n) j c :=
      State.chooseJob_takes he (fun d hd => by rw [holdest, hbefore d hd]; rfl) (by rw [holdest, hqueued]; rfl)
        (by rw [hchan, chanOf_fieldOfChan])
    exact congrArg Host.Outcome.next hchoose
  · rcases h with h | h
    · exact State.chooseJob_busy h
    · exact State.chooseJob_nothing fun l => by rw [holdest, h l]; rfl

/-! ### The transmitter's choice (R86 to R88) -/

theorem exec_transmitStart {s : State} {l : Link} (hup : (s.port l).state ≠ .down) (hidle : (s.port l).tx = .idle) :
    exec (.transmitStart l) s = .next (s.transmit l) := if_pos ⟨hup, hidle⟩

theorem State.transmit_response {s : State} {l : Link} {r : Response} {rs : List Response}
    (h : (s.port l).responses = r :: rs) :
    s.transmit l = s.setPort l { s.port l with tx := .sending (.response r), responses := rs } := by
  rw [State.transmit, h]
  rfl

theorem State.transmit_notice {s : State} {l : Link} {n : Notice} {ns : List Notice} (hr : (s.port l).responses = [])
    (h : (s.port l).notices = n :: ns) :
    s.transmit l = s.setPort l { s.port l with tx := .sending (.notice n), notices := ns } := by
  rw [State.transmit, hr, h]
  rfl

theorem State.transmit_rx {s : State} {l : Link} (hr : (s.port l).responses = []) (hn : (s.port l).notices = [])
    (hq : (s.port l).ready = []) : s.transmit l = s.startRxOrWatch l := by
  rw [State.transmit, hr, hn, hq]

theorem Job.eq_of_place {js : List Job} (hn : (js.map Job.place).Nodup) {x y : Job} (hx : x ∈ js) (hy : y ∈ js)
    (h : x.place = y.place) : x = y :=
  List.inj_on_of_nodup_map hn hx hy h

/-- The job of a slot, slots being of one job each. -/
theorem LinkPort.jobAt_eq {p : LinkPort} (hn : (p.jobs.map Job.place).Nodup) {j : Job} (hj : j ∈ p.jobs) :
    p.jobAt j.place = some j := by
  obtain ⟨x, hx⟩ : ∃ x, p.jobAt j.place = some x := Option.isSome_iff_exists.mp (List.find?_isSome.mpr ⟨j, hj, by simp⟩)
  have hplace : x.place = j.place := by simpa using List.find?_some hx
  rw [hx, Job.eq_of_place hn (List.mem_of_find?_eq_some hx) hj hplace]

theorem State.transmit_eqOut {s : State} {l : Link} {ks : List (Fin 4)} {j : Job} {r : EqResult}
    (hr : (s.port l).responses = []) (hn : (s.port l).notices = []) (hq : (s.port l).ready = j.place :: ks)
    (hj : j ∈ (s.port l).jobs) (hplaces : ((s.port l).jobs.map Job.place).Nodup) (hs : j.state = .ready r) :
    s.transmit l = s.setPort l { s.port l with
      tx := .sending (.eqOut j.tag j.chan r (some j.place)), ready := ks
      jobs := (s.port l).jobs.map fun i => if i.place = j.place then { i with state := .sending r } else i } := by
  have hresult : j.result = r := by rw [Job.result, hs]
  have hjobs : (s.port l).jobs.map (fun i => if i.place = j.place then { i with state := .sending i.result } else i) =
      (s.port l).jobs.map fun i => if i.place = j.place then { i with state := .sending r } else i := by
    refine List.map_congr_left fun i hi => ?_
    split
    · rename_i hp
      rw [Job.eq_of_place hplaces hi hj hp, hresult]
    · rfl
  rw [State.transmit, hr, hn, hq]
  dsimp only
  rw [LinkPort.jobAt_eq hplaces hj, ← hresult] at *
  rw [hresult, ← hjobs]
  rfl

/-! ### Rx blocks in turn (R88) -/

theorem Channel.hasRxFor_iff (ch : Channel) (l : Link) : ch.hasRxFor l = true ↔ ∃ e ∈ ch.rxq, l ∈ e.due := by
  simp [Channel.hasRxFor]

theorem Channel.hasRxFor_eq_false {ch : Channel} {l : Link} (h : ∀ e ∈ ch.rxq, l ∉ e.due) : ch.hasRxFor l = false := by
  rw [Bool.eq_false_iff, Ne, Channel.hasRxFor_iff]
  exact fun ⟨e, he, hl⟩ => h e he hl

theorem Channel.oldestRxFor_eq {ch : Channel} {l : Link} {before after : List RxEntry} {e : RxEntry}
    (hq : ch.rxq = before ++ e :: after) (hb : ∀ x ∈ before, l ∉ x.due) (he : l ∈ e.due) :
    ch.oldestRxFor l = some e := by
  have hnone : before.find? (fun x => x.due.contains l) = none :=
      List.find?_eq_none.mpr fun x hx => by simpa using hb x hx
  rw [Channel.oldestRxFor, hq, List.find?_append, hnone, Option.none_or]
  exact List.find?_cons_of_pos (by simpa using he)

/-- The oldest entry due to a link loses its mark, and leaves if it was due to nobody else. -/
theorem startRx_append {l : Link} {before after : List RxEntry} {e : RxEntry} (hb : ∀ x ∈ before, l ∉ x.due)
    (he : l ∈ e.due) : startRx l (before ++ e :: after) =
      before ++ (if e.due.filter (· ≠ l) = [] then after else { e with due := e.due.filter (· ≠ l) } :: after) := by
  have hne : (fun i => i != l) = fun i => decide (i ≠ l) := funext fun i => by rw [bne, beq_eq_decide, decide_not]
  induction before with
  | nil =>
    rw [List.nil_append, List.nil_append, startRx, if_pos (by simpa using he), hne]
    simp only [List.isEmpty_iff]
  | cons x xs ih =>
    have hx : l ∉ x.due := hb x List.mem_cons_self
    rw [List.cons_append, startRx, if_neg (by simpa using hx), ih fun y hy => hb y (List.mem_cons_of_mem _ hy)]
    rfl

/-- Settles O46: the five choices in their order. -/
theorem transmitterSendsByPriority : Obligations.TransmitterSendsByPriority := by
  intro l s p hup hidle
  rw [exec_transmitStart hup hidle]
  refine ⟨fun r rs h => by rw [State.transmit_response h], fun n ns hr hn => by rw [State.transmit_notice hr hn],
    fun k ks j r hr hn hq hj hk hplaces hs => ?_, ?_, fun hr hn hq hrx => ?_⟩
  · subst hk
    rw [State.transmit_eqOut hr hn hq hj hplaces hs]
  · intro n before after e c hr hn hq hbefore hrxq hb he
    have hfind : (rxOrder p.lastServed).find? (fun c => (s.chan c).hasRxFor l) = some c :=
      find?_map_finRange (fun i => p.lastServed + 1 + i) _
        ((Channel.hasRxFor_iff _ l).mpr ⟨e, by rw [hrxq]; simp, he⟩)
        fun d hd => Channel.hasRxFor_eq_false (hbefore d hd)
    have hrx : s.startRxOrWatch l = s.startRxBlock l c e := by
      rw [State.startRxOrWatch, hfind]
      dsimp only
      rw [Channel.oldestRxFor_eq hrxq hb he]
    rw [State.transmit_rx hr hn hq, hrx, State.startRxBlock, State.updChan, hrxq, startRx_append hb he]
    rfl
  · have hfind : (rxOrder p.lastServed).find? (fun c => (s.chan c).hasRxFor l) = none :=
      List.find?_eq_none.mpr fun c _ => by rw [Channel.hasRxFor_eq_false (hrx c)]; nofun
    have hwatch : s.startRxOrWatch l = match p.watchData with
        | some d => s.setPort l { p with tx := .sending (.watchData d), watchData := none }
        | none => s := by
      rw [State.startRxOrWatch, hfind]
      cases p.watchData <;> rfl
    rw [State.transmit_rx hr hn hq]
    exact congrArg _ hwatch

/-! ### Message completion (R89, R147, R148) -/

theorem exec_messageCompletion {s : State} {l : Link} {m : OutMsg} (h : (s.port l).tx = .sending m) :
    exec (.messageCompletion l) s = .next (s.setPort l { (s.port l).completed m with tx := .idle }) := by
  show execMessageCompletion l s = _
  rw [execMessageCompletion, h]
  rfl

theorem filter_ne_place {α : Type} (f : α → Fin 4) (xs : List α) (k : Option (Fin 4)) :
    (match k with | some k => xs.filter (fun x => f x != k) | none => xs) =
      xs.filter fun x => decide (some (f x) ≠ k) := by
  cases k with
  | none => simp
  | some k => exact List.filter_congr fun x _ => by simp [bne, beq_eq_decide]

theorem LinkPort.completed_response (p : LinkPort) (r : Response) :
    p.completed (.response r) = { p with intake := p.intake.filter fun e => decide (some e.place ≠ r.entry) } := by
  rw [← filter_ne_place Entry.place]
  obtain ⟨kind, chan, tag, code, body, entry⟩ := r
  cases entry <;> rfl

theorem LinkPort.completed_eqOut (p : LinkPort) (tag : Tag) (ch : ChanField) (r : EqResult) (k : Option (Fin 4)) :
    p.completed (.eqOut tag ch r k) = { p with jobs := p.jobs.filter fun j => decide (some j.place ≠ k) } := by
  rw [← filter_ne_place Job.place]
  cases k <;> rfl

/-- A sticking counter as a number. -/
theorem stick16_eq (n : BitVec 16) : stick16 n = BitVec.ofNat 16 (min 65535 (n.toNat + 1)) := by
  have hlt := n.isLt
  unfold stick16
  split
  · rename_i h
    subst h
    rfl
  · rename_i h
    have hne : n.toNat ≠ 65535 := fun hn => h (BitVec.eq_of_toNat_eq hn)
    refine BitVec.eq_of_toNat_eq ?_
    rw [BitVec.toNat_add, BitVec.toNat_ofNat, Nat.min_eq_right (by omega)]
    rfl

/-- Settles O47: the messages one by one, and a notice on a queue with room and on a full one. -/
theorem messageCompletionFreesWhatWasSent : Obligations.MessageCompletionFreesWhatWasSent := by
  refine ⟨?_, ?_⟩
  · intro l s p
    refine ⟨fun r h => ?_, fun n h => ?_, fun tag ch r k h => ?_, fun c q b h => exec_messageCompletion h,
      fun d h => exec_messageCompletion h, fun h => if_pos h, fun h => ⟨?_, if_neg (by rw [h]; nofun)⟩⟩
    · rw [exec_messageCompletion h, LinkPort.completed_response]
    · rw [exec_messageCompletion h]
      by_cases hlost : p.lost ≠ 0 ∧ p.notices.length < 16
      · have hreport : (s.port l).completed (.notice n) = _ := if_pos hlost
        rw [hreport, if_pos hlost]
      · have hreport : (s.port l).completed (.notice n) = _ := if_neg hlost
        rw [hreport, if_neg hlost]
    · rw [exec_messageCompletion h, LinkPort.completed_eqOut]
    · show execMessageCompletion l s = _
      rw [execMessageCompletion, h]
  · intro p n more
    refine ⟨LinkPort.putNotice_room, fun h => ?_⟩
    rw [LinkPort.putNotice_full (Nat.not_lt_of_le h), stick16_eq, stick16_eq]

end Sys2Proof.Machine

/-! SUPPORT. EQ_IN: its operands, the job it makes, and the slot the job takes. -/

namespace Sys2Proof.Machine

/-! ### The operands of an EQ_IN (R95, R96) -/

theorem eqInputs_eq (ws : List Word) : eqInputs ws = (ws.getD 0 0).toNat % 32 := fieldAt_zero _ 5

theorem eqInFormed_iff (ws : List Word) : eqInFormed ws = true ↔
    1 ≤ (ws.getD 0 0).toNat % 32 ∧ (ws.getD 0 0).toNat % 32 ≤ 16 ∧ (ws.getD 0 0).toNat / 256 % 16 ≤ 8 ∧
      ws.length = (ws.getD 0 0).toNat % 32 + (ws.getD 0 0).toNat / 256 % 16 + 1 := by
  rw [eqInFormed, decide_eq_true_iff, eqInputs_eq]
  rfl

theorem jobOf_eq (k : Fin 4) (f : ChanField) (tag : Tag) (ws : List Word) (st : JobState) :
    jobOf k f tag ws st =
      { place := k, tag := tag, chan := f, state := st
        inputs := ((ws.drop 1).take ((ws.getD 0 0).toNat % 32)).map fun w =>
          (w.extractLsb' 0 16, w.extractLsb' 16 16)
        refs := ((ws.drop (1 + (ws.getD 0 0).toNat % 32)).take ((ws.getD 0 0).toNat / 256 % 16)).map fun w =>
          (w.toNat % 256, w.toNat / 256 % 256) } := by
  have hpair : unpackPair = fun w => (w.extractLsb' 0 16, w.extractLsb' 16 16) :=
    funext fun w => Prod.ext (sampleAt_eq_extractLsb' w 0) (sampleAt_eq_extractLsb' w 16)
  have href : (fun w => (fieldAt w 0 8, fieldAt w 8 8)) = fun w : Word => (w.toNat % 256, w.toNat / 256 % 256) :=
    funext fun w => Prod.ext (fieldAt_byte w) rfl
  rw [jobOf, eqInputs_eq, hpair, href]
  rfl

/-! ### What becomes of an EQ_IN -/

theorem exec_eqIn {l : Link} {f : ChanField} {tag : Tag} {ws : List Word} {s : State} (hpin : s.pin = false)
    (hup : (s.port l).state = .up) (h2 : 2 ≤ ws.length) (h25 : ws.length ≤ 25) :
    exec (.eqIn l f tag ws) s = .next
      (if eqInFormed ws then
        if s.mark then s.updPort l LinkPort.heard else (s.updPort l LinkPort.heard).submitJob l f tag ws
      else if s.mark then s.updPort l LinkPort.atHeader else s.updPort l LinkPort.malformed) := by
  have hlen : ¬ (!eqInLengthOk ws) = true := by simp [eqInLengthOk, h2, h25]
  refine (if_pos ((s.listens_iff l).mpr ⟨hpin, hup⟩)).trans ((if_neg hlen).trans ?_)
  split_ifs <;> rfl

theorem exec_malformedHeader {l : Link} {s : State} (hpin : s.pin = false) (hup : (s.port l).state = .up) :
    exec (.malformedHeader l) s = .next (s.updPort l LinkPort.malformed) :=
  if_pos ((s.listens_iff l).mpr ⟨hpin, hup⟩)

/-- A job that takes a slot. -/
theorem State.submitJob_slot {s : State} {l : Link} {k : Fin 4} (h : (s.port l).freeJobPlace = some k) (f : ChanField)
    (tag : Tag) (ws : List Word) :
    (s.updPort l LinkPort.heard).submitJob l f tag ws =
      s.updPort l fun p => p.heard.addJob (jobOf k f tag ws (s.jobBegins l f)) := by
  have hk : ((s.updPort l LinkPort.heard).port l).freeJobPlace = some k := by rw [State.port_updPort]; exact h
  rw [State.submitJob, hk]
  exact State.updPort_updPort ..

/-- A job that finds no slot. -/
theorem State.submitJob_full {s : State} {l : Link} (h : (s.port l).freeJobPlace = none) (f : ChanField) (tag : Tag)
    (ws : List Word) :
    (s.updPort l LinkPort.heard).submitJob l f tag ws = (s.updPort l LinkPort.heard).skipJob l f tag := by
  have hk : ((s.updPort l LinkPort.heard).port l).freeJobPlace = none := by rw [State.port_updPort]; exact h
  rw [State.submitJob, hk]

/-- How the job of a channel begins (R97). -/
theorem State.jobBegins_on (s : State) (l : Link) (c : Chan) : s.jobBegins l (fieldOfChan c) =
    if (s.chan c).eq = none ∨ (s.chan c).state = .free ∨ (s.chan c).state = .opening then .ready (EqResult.bare .noEq)
    else if (s.chan c).holder = some l then .queued
    else .ready (EqResult.bare .notHolder) := by
  rw [State.jobBegins, chanOf_fieldOfChan]
  refine if_congr ?_ rfl rfl
  rw [Bool.or_eq_true, decide_eq_true_iff, Option.isNone_iff_eq_none]

theorem State.jobBegins_bad {s : State} {l : Link} {f : ChanField} (h : 48 ≤ f.toNat) :
    s.jobBegins l f = .ready (EqResult.bare .noEq) := by
  rw [State.jobBegins, chanOf_eq_none.mpr h]

theorem LinkPort.addJob_queued (p : LinkPort) {j : Job} (h : j.state = .queued) :
    p.addJob j = { p with jobs := p.jobs ++ [j] } := by
  rw [LinkPort.addJob, h]

theorem LinkPort.addJob_ready (p : LinkPort) {j : Job} {r : EqResult} (h : j.state = .ready r) :
    p.addJob j = { p with jobs := p.jobs ++ [j], ready := p.ready ++ [j.place] } := by
  rw [LinkPort.addJob, h]

/-- A notice for a link that is UP. -/
theorem State.notify_up {s : State} {l : Link} (h : (s.port l).state = .up) (n : Notice) :
    s.notify l n = s.updPort l (·.putNotice n) :=
  if_neg (by rw [State.isDown, h]; nofun)

/-- A job that finds no slot is counted on a running channel, and reported. -/
theorem State.skipJob_on {s : State} {l : Link} (hup : (s.port l).state = .up) (c : Chan) (tag : Tag) :
    (s.updPort l LinkPort.heard).skipJob l (fieldOfChan c) tag =
      (if (s.chan c).state = .free ∨ (s.chan c).state = .opening then s
        else s.setChan c { s.chan c with
          cnt := { (s.chan c).cnt with eqJobsSkipped := stick16 (s.chan c).cnt.eqJobsSkipped } }).updPort l
        fun p => p.heard.putNotice { chan := fieldOfChan c, body := .eqSkipped tag } := by
  have hup' : ((s.updPort l LinkPort.heard).port l).state = .up := by rw [State.port_updPort]; exact hup
  have hruns : (s.chan c).state.runs = true ↔ ¬ ((s.chan c).state = .free ∨ (s.chan c).state = .opening) := by
    rw [Life.runs_iff, not_or]
  have hskip : (s.updPort l LinkPort.heard).skipJob l (fieldOfChan c) tag =
      (if (s.chan c).state.runs = true then
        (s.updPort l LinkPort.heard).updChan c fun r =>
          { r with cnt := { r.cnt with eqJobsSkipped := stick16 r.cnt.eqJobsSkipped } }
      else s.updPort l LinkPort.heard).notify l { chan := fieldOfChan c, body := .eqSkipped tag } := by
    rw [State.skipJob, chanOf_fieldOfChan]
    rfl
  rw [hskip]
  by_cases h : (s.chan c).state = .free ∨ (s.chan c).state = .opening
  · rw [if_neg (mt hruns.mp (not_not_intro h)), if_pos h, State.notify_up hup']
    exact State.updPort_updPort ..
  · rw [if_pos (hruns.mpr h), if_neg h]
    refine (State.notify_up (by exact hup') _).trans ?_
    exact State.updPort_updPort (s.setChan c { s.chan c with
      cnt := { (s.chan c).cnt with eqJobsSkipped := stick16 (s.chan c).cnt.eqJobsSkipped } }) ..

theorem State.skipJob_bad {s : State} {l : Link} (hup : (s.port l).state = .up) {f : ChanField} (h : 48 ≤ f.toNat)
    (tag : Tag) : (s.updPort l LinkPort.heard).skipJob l f tag =
      s.updPort l fun p => p.heard.putNotice { chan := f, body := .eqSkipped tag } := by
  have hup' : ((s.updPort l LinkPort.heard).port l).state = .up := by rw [State.port_updPort]; exact hup
  rw [State.skipJob, chanOf_eq_none.mpr h]
  exact (State.notify_up hup' _).trans (State.updPort_updPort ..)

/-- Settles O26. -/
theorem eqInTakesAJobSlot : Obligations.EqInTakesAJobSlot := by
  refine ⟨?_, ?_⟩
  · intro l k c tag ws s ch n r formed bare job hpin hup hclear h2 h25
    have hmark : ¬ s.mark = true := by rw [State.mark_eq_false.mpr hclear]; nofun
    have hexec := exec_eqIn (f := fieldOfChan c) (tag := tag) hpin hup h2 h25
    have hformed : eqInFormed ws = true ↔ formed := eqInFormed_iff ws
    refine ⟨fun hf hk => ?_, fun hf hk => ?_, fun hf => ?_⟩
    · rw [hexec, if_pos (hformed.mpr hf), if_neg hmark, State.submitJob_slot hk, State.jobBegins_on]
      refine congrArg Host.Outcome.next (congrArg (s.updPort l) (funext fun p => ?_))
      split_ifs
      · exact (LinkPort.addJob_ready _ rfl).trans (by rw [jobOf_eq]; rfl)
      · exact (LinkPort.addJob_queued _ rfl).trans (by rw [jobOf_eq]; rfl)
      · exact (LinkPort.addJob_ready _ rfl).trans (by rw [jobOf_eq]; rfl)
    · rw [hexec, if_pos (hformed.mpr hf), if_neg hmark, State.submitJob_full hk, State.skipJob_on hup]
    · rw [hexec, if_neg (mt hformed.mp hf), if_neg hmark, exec_malformedHeader hpin hup]
  · intro l k f tag ws s n r formed job
    have hformed : eqInFormed ws = true ↔ formed := eqInFormed_iff ws
    refine ⟨fun h => if_neg (by rw [State.not_listens h]; nofun), fun hpin hup h2 h25 => ?_⟩
    have hexec := exec_eqIn (f := f) (tag := tag) hpin hup h2 h25
    refine ⟨fun hclear => ?_, fun hclear hbad => ?_⟩
    · have hmark : s.mark = true := by simpa [State.mark] using hclear
      refine ⟨fun hf => ?_, fun hf => ?_⟩
      · rw [hexec, if_pos (hformed.mpr hf), if_pos hmark]
      · rw [hexec, if_neg (mt hformed.mp hf), if_pos hmark]
        rfl
    · have hmark : ¬ s.mark = true := by rw [State.mark_eq_false.mpr hclear]; nofun
      refine ⟨fun hf hk => ?_, fun hf hk => ?_, fun hf => ?_⟩
      · rw [hexec, if_pos (hformed.mpr hf), if_neg hmark, State.submitJob_slot hk, State.jobBegins_bad hbad]
        refine congrArg Host.Outcome.next (congrArg (s.updPort l) (funext fun p => ?_))
        exact (LinkPort.addJob_ready _ rfl).trans (by rw [jobOf_eq]; rfl)
      · rw [hexec, if_pos (hformed.mpr hf), if_neg hmark, State.submitJob_full hk, State.skipJob_bad hup hbad]
      · rw [hexec, if_neg (mt hformed.mp hf), if_neg hmark, exec_malformedHeader hpin hup]

end Sys2Proof.Machine

/-! SUPPORT. An input of the running job: the sums, the decision, the error and the update as the statement writes
them. -/

namespace Sys2Proof.Machine

/-! ### The output and its decision (R101, R102) -/

theorem sumRe_eq (ts : List (Tap × Tap)) (us : List Cplx) : sumRe ts us =
    (List.zipWith (fun (t : Tap × Tap) (v : Cplx) => t.1.toInt * v.1.toInt - t.2.toInt * v.2.toInt) ts us).sum := by
  induction ts generalizing us with
  | nil => rfl
  | cons t ts ih =>
    cases us with
    | nil => rfl
    | cons u us => rw [List.zipWith_cons_cons, List.sum_cons, ← ih]; rfl

theorem sumIm_eq (ts : List (Tap × Tap)) (us : List Cplx) : sumIm ts us =
    (List.zipWith (fun (t : Tap × Tap) (v : Cplx) => t.1.toInt * v.2.toInt + t.2.toInt * v.1.toInt) ts us).sum := by
  induction ts generalizing us with
  | nil => rfl
  | cons t ts ih =>
    cases us with
    | nil => rfl
    | cons u us => rw [List.zipWith_cons_cons, List.sum_cons, ← ih]; rfl

theorem EqCtx.output_eq (q : EqCtx) : q.output =
    (max (-32768) (min 32767 (((List.zipWith (fun (t : Tap × Tap) (v : Cplx) =>
        t.1.toInt * v.1.toInt - t.2.toInt * v.2.toInt) q.taps q.line).sum + 2 ^ (22 - 1)) / 2 ^ 22)),
     max (-32768) (min 32767 (((List.zipWith (fun (t : Tap × Tap) (v : Cplx) =>
        t.1.toInt * v.2.toInt + t.2.toInt * v.1.toInt) q.taps q.line).sum + 2 ^ (22 - 1)) / 2 ^ 22))) := by
  rw [EqCtx.output, sumRe_eq, sumIm_eq, saturateSample_eq_max_min, saturateSample_eq_max_min]
  rfl

/-! ### The update (R104, R105) -/

/-- One tap after the update, its clamp written out. -/
theorem updateEqTap_eq (m : Nat) (er ei : Int) (t : Tap × Tap) (v : Cplx) : updateEqTap m er ei t v =
    (BitVec.ofInt 24 (max (-8388608) (min 8388607
        (t.1.toInt + (er * v.1.toInt + ei * v.2.toInt + 2 ^ (m - 1)) / 2 ^ m))),
     BitVec.ofInt 24 (max (-8388608) (min 8388607
        (t.2.toInt + (ei * v.1.toInt - er * v.2.toInt + 2 ^ (m - 1)) / 2 ^ m)))) := by
  rw [updateEqTap, clampTap_eq_max_min, clampTap_eq_max_min]
  rfl

theorem EqCtx.updatedTaps_eq (q : EqCtx) (err : Int × Int) : q.updatedTaps err =
    if q.mode = .hold then q.taps
    else List.zipWith (updateEqTap (if q.mode = .train then q.trainM else q.trackM) err.1 err.2) q.taps q.line := by
  unfold EqCtx.updatedTaps
  cases q.mode <;> rfl

theorem pepsStep_eq (p : BitVec 32) (er ei : Int) :
    pepsStep p er ei = BitVec.ofInt 32 (p.toNat - p.toNat / 64 + (er * er + ei * ei) / 64) := by
  have hsq : 0 ≤ er * er + ei * ei := by nlinarith
  have hcast : ((p.toNat - p.toNat / 64 + ((er * er + ei * ei) / 64).toNat : Nat) : Int) =
      p.toNat - p.toNat / 64 + (er * er + ei * ei) / 64 := by omega
  rw [pepsStep, ← hcast, BitVec.ofInt_natCast]

/-! ### EQ_INPUT_PUSH (R100 to R105) -/

theorem exec_eqInputPush {s : State} {j : RunJob} {u : Cplx} {us : List Cplx} {q : EqCtx} (he : s.engine = some j)
    (hc : j.closed = false) (hi : j.inputs = u :: us) (hq : (s.chan j.chan).eq = some q) :
    exec .eqInputPush s = .next
      { s.setChan j.chan { s.chan j.chan with eq := some (q.step u j.refs).1 } with
        engine := some { j with
          inputs := us, refs := (q.step u j.refs).2.1, outputs := j.outputs ++ (q.step u j.refs).2.2 } } := by
  show execEqInputPush s = _
  simp only [execEqInputPush, he, hi, hq, hc, Bool.false_eq_true, if_false, State.updChan]

theorem EqCtx.step_quiet {q : EqCtx} (h : q.phase = false) (u : Cplx) (refs : List (Nat × Nat)) :
    q.step u refs = ({ q with line := (u :: q.line).take q.ne, phase := true }, refs, []) := by
  have hp : (q.push u).phase = true := by rw [EqCtx.push, h]; rfl
  rw [EqCtx.step, if_pos hp, EqCtx.push, h]
  rfl

theorem EqCtx.step_output {q : EqCtx} (h : q.phase = true) (u : Cplx) (refs : List (Nat × Nat)) :
    q.step u refs = ((q.push u).learn ((q.push u).target refs).1, ((q.push u).target refs).2, [(q.push u).report]) := by
  have hp : ¬ (q.push u).phase = true := by rw [EqCtx.push, h]; nofun
  rw [EqCtx.step, if_neg hp]

/-- Settles O28. -/
theorem inputPushFiltersDecidesAndAdapts : Obligations.InputPushFiltersDecidesAndAdapts := by
  intro j u us q s ch line round sample tap z top decide' level index target e b he hc hi hq
  rw [exec_eqInputPush he hc hi hq]
  refine ⟨fun hp => ?_, fun hp => ?_⟩
  · rw [EqCtx.step_quiet hp, List.append_nil]
  · have hz : (q.push u).output = z := EqCtx.output_eq _
    have hslice (x : Int) : sliceLevel q.lv q.a x = decide' x := sliceLevel_eq_max_min ..
    have hdecision : (q.push u).decision = (decide' z.1, decide' z.2) := by
      rw [EqCtx.decision, hz]
      exact Prod.ext (hslice _) (hslice _)
    have htarget : ((q.push u).target j.refs).1 = target ∧
        ((q.push u).target j.refs).2 = match q.mode, j.refs with | .train, _ :: rs => rs | _, _ => j.refs := by
      have hmode : (q.push u).mode = q.mode := rfl
      unfold EqCtx.target
      rw [hdecision, hmode]
      simp only [target]
      cases q.mode <;> cases j.refs <;> exact ⟨rfl, rfl⟩
    obtain ⟨htarget, hrefs⟩ := htarget
    have herror : (q.push u).errorTo target = e := by
      rw [EqCtx.errorTo, hz, saturateSample_eq_max_min, saturateSample_eq_max_min]
    have hreport : (q.push u).report =
        { z := (BitVec.ofInt 16 z.1, BitVec.ofInt 16 z.2), reIndex := index (decide' z.1), imIndex :=
            index (decide' z.2) } := by
      rw [EqCtx.report, hz, hdecision]
      rfl
    have hlearn : (q.push u).learn target = { q with
        line := line, phase := false
        taps := if q.mode = .hold then q.taps else
          List.zipWith (fun (t : Tap × Tap) (v : Cplx) =>
            (tap (t.1.toInt + round (e.1 * v.1.toInt + e.2 * v.2.toInt) b),
             tap (t.2.toInt + round (e.2 * v.1.toInt - e.1 * v.2.toInt) b))) q.taps line
        peps := BitVec.ofInt 32 (q.peps.toNat - q.peps.toNat / 64 + (e.1 * e.1 + e.2 * e.2) / 64) } := by
      rw [EqCtx.learn, herror, EqCtx.updatedTaps_eq, pepsStep_eq, EqCtx.push, hp]
      simp only [funext₂ (updateEqTap_eq _ _ _)] <;> rfl
    rw [EqCtx.step_output hp, htarget, hrefs, hlearn, hreport] <;> rfl

end Sys2Proof.Machine

/-! SUPPORT. The completion of a job: what the commands held behind it do not look at, and their answers. -/

namespace Sys2Proof.Machine

/-! ### A change that a held command does not see -/

/-- A change of the state in nothing that the commands of R107 look at or write. -/
structure Unseen (T : State → State) : Prop where
  chan : ∀ s c, (T s).chan c = s.chan c
  eqUsed : ∀ s, (T s).eqUsed = s.eqUsed
  setChan : ∀ s c x, (T s).setChan c x = T (s.setChan c x)
  setEqUsed : ∀ s n, { T s with eqUsed := n } = T { s with eqUsed := n }
  finishQueued : ∀ s c st, (T s).finishQueued c st = T (s.finishQueued c st)

/-- A result with the unseen change made after it. -/
def withUnseen (T : State → State) (r : State × Reply) : State × Reply := (T r.1, r.2)

namespace Unseen

variable {T : State → State} (h : Unseen T)
include h

theorem asHolder {l : Link} {m : CmdMsg} {s : State} {f g : Chan → State × Reply} (hf : ∀ c, g c = withUnseen T (f c)) :
    asHolder l m (T s) g = withUnseen T (asHolder l m s f) := by
  unfold Machine.asHolder withChan
  cases chanOf m.chan with
  | none => rfl
  | some c =>
    dsimp only
    rw [h.chan]
    cases (s.chan c).holderRefusal l with
    | some code => rfl
    | none => exact hf c

theorem updChan (s : State) (c : Chan) (f : Channel → Channel) : (T s).updChan c f = T (s.updChan c f) := by
  rw [State.updChan, h.chan, h.setChan]
  rfl

theorem eqOpenNow (l : Link) (m : CmdMsg) (s : State) : eqOpenNow l m (T s) = withUnseen T (eqOpenNow l m s) := by
  refine h.asHolder fun c => ?_
  cases eqRequest m with
  | none => rfl
  | some q =>
    dsimp only
    rw [h.eqUsed, h.chan, h.updChan, h.setEqUsed]
    split <;> rfl

theorem eqCloseNow (l : Link) (m : CmdMsg) (s : State) : eqCloseNow l m (T s) = withUnseen T (eqCloseNow l m s) := by
  refine h.asHolder fun c => ?_
  dsimp only
  rw [h.eqUsed, h.chan, h.updChan, h.setEqUsed, h.finishQueued]
  split <;> rfl

theorem eqSetNow (l : Link) (m : CmdMsg) (s : State) : eqSetNow l m (T s) = withUnseen T (eqSetNow l m s) := by
  refine h.asHolder fun c => ?_
  dsimp only
  rw [h.chan]
  split
  · rw [h.updChan]
    rfl
  · rfl

theorem clearTapsNow (l : Link) (m : CmdMsg) (s : State) :
    clearTapsNow l m (T s) = withUnseen T (clearTapsNow l m s) := by
  refine h.asHolder fun c => ?_
  dsimp only
  rw [h.chan, h.updChan]
  split
  · rfl
  · split <;> rfl

theorem pokeNow (l : Link) (m : CmdMsg) (s : State) : pokeNow l m (T s) = withUnseen T (pokeNow l m s) := by
  refine h.asHolder fun c => ?_
  dsimp only
  rw [h.chan, h.updChan]
  split <;> rfl

theorem heldNow (e : Held) (s : State) : heldNow e (T s) = withUnseen T (heldNow e s) := by
  unfold Machine.heldNow
  cases e.msg.kind with
  | eqOpen => exact h.eqOpenNow _ _ _
  | eqClose => exact h.eqCloseNow _ _ _
  | eqSet => exact h.eqSetNow _ _ _
  | clearTaps => exact h.clearTapsNow _ _ _
  | poke => exact h.pokeNow _ _ _
  | _ => rfl

end Unseen

/-! ### The line of a port is unseen -/

/-- The state with another line, intake and response queue of one port, another pin, clear and engine. -/
def State.relined (l : Link) (f : LinkPort → LinkPort) (pin : Bool) (clear : Clear) (engine : Option RunJob) (s :
    State) : State :=
  { s.updPort l f with pin := pin, clear := clear, engine := engine }

/-- The port `q` with what port `p` has of its line, its intake and its responses. -/
def LinkPort.relinedAs (p q : LinkPort) : LinkPort :=
  { q with
    state := p.state, framing := p.framing, part := p.part, malformedRun := p.malformedRun, timer := p.timer
    intake := p.intake, responses := p.responses }

theorem State.port_relined (l : Link) (f : LinkPort → LinkPort) (pin : Bool) (clear : Clear) (engine : Option RunJob)
    (s : State) (i : Link) : (State.relined l f pin clear engine s).port i = if i = l then
        f (s.port i) else s.port i := by
  show (s.updPort l f).port i = _
  rw [State.port_updPort_ite]
  split
  · rename_i h; rw [h]
  · rfl

theorem State.relined_unseen (l : Link) (p : LinkPort) (pin : Bool) (clear : Clear) (engine : Option RunJob) :
    Unseen (State.relined l p.relinedAs pin clear engine) where
  chan _ _ := rfl
  eqUsed _ := rfl
  setChan _ _ _ := rfl
  setEqUsed _ _ := rfl
  finishQueued s c st := by
    refine State.SameButPorts.eq_of_ports (s := { s with
      pin := pin, clear := clear, engine := engine, freeCount := s.freeCount + 1 }) rfl rfl fun i => ?_
    rw [State.port_relined, State.port_finishQueued, State.port_finishQueued, State.port_relined]
    split <;> rfl

/-- A port relined as itself is itself. -/
theorem LinkPort.relinedAs_self (p : LinkPort) : p.relinedAs p = p := rfl

theorem State.relined_self (s : State) (l : Link) :
    State.relined l (s.port l).relinedAs s.pin s.clear s.engine s = s := by
  refine State.SameButPorts.eq_of_ports (s := s) rfl rfl fun i => ?_
  rw [State.port_relined]
  split
  · rename_i h; rw [h, LinkPort.relinedAs_self]
  · rfl

/-- A held command leaves the line, the intake and the responses of every port. -/
theorem heldNow_port (e : Held) (s : State) (l : Link) :
    ((heldNow e s).1.port l).intake = (s.port l).intake ∧ ((heldNow e s).1.port l).responses =
        (s.port l).responses := by
  have h := (State.relined_unseen l (s.port l) s.pin s.clear s.engine).heldNow e s
  rw [State.relined_self] at h
  have hport := congrArg (fun r : State × Reply => r.1.port l) h
  rw [hport]
  show ((State.relined l (s.port l).relinedAs s.pin s.clear s.engine (heldNow e s).1).port l).intake = _ ∧
    ((State.relined l (s.port l).relinedAs s.pin s.clear s.engine (heldNow e s).1).port l).responses = _
  rw [State.port_relined, if_pos rfl]
  exact ⟨rfl, rfl⟩

/-! ### A held command is completed when it is taken -/

theorem asHolder_done {l : Link} {m : CmdMsg} {s : State} {f : Chan → State × Reply}
    (h : ∀ c, ∃ code body, (f c).2 = .done code body) : ∃ code body, (asHolder l m s f).2 = .done code body := by
  unfold asHolder withChan
  split
  · dsimp only
    split
    · exact ⟨_, _, rfl⟩
    · exact h _
  · exact ⟨_, _, rfl⟩

theorem heldNow_done (e : Held) (s : State) : ∃ code body, (heldNow e s).2 = .done code body := by
  unfold heldNow
  split
  case h_1 =>
    refine asHolder_done fun c => ?_
    split
    · exact ⟨_, _, rfl⟩
    · split <;> exact ⟨_, _, rfl⟩
  case h_2 => exact asHolder_done fun c => by dsimp only; split <;> exact ⟨_, _, rfl⟩
  case h_3 => exact asHolder_done fun c => by dsimp only; split <;> exact ⟨_, _, rfl⟩
  case h_4 =>
    refine asHolder_done fun c => ?_
    dsimp only
    split
    · exact ⟨_, _, rfl⟩
    · split <;> exact ⟨_, _, rfl⟩
  case h_5 => exact asHolder_done fun c => by dsimp only; split <;> exact ⟨_, _, rfl⟩
  case h_6 => exact ⟨_, _, rfl⟩

/-- A command that checks its channel, and then its holder, checks its channel once. -/
theorem withChan_asHolder (l : Link) (m : CmdMsg) (s : State) (f : Chan → State × Reply) :
    withChan m s (fun _ => asHolder l m s f) = asHolder l m s f := by
  unfold asHolder withChan
  split <;> rfl

/-- With no job running, a command of R107 is taken as it would be when held. -/
theorem taking_idle {i : Instr} {l : Link} {m : CmdMsg} {s : State} (hi : i.command = some (l, m))
    (hkind : m.kind = .eqOpen ∨ m.kind = .eqClose ∨ m.kind = .eqSet ∨ m.kind = .clearTaps ∨ m.kind = .poke)
    (he : s.engine = none) (k n : Fin 4) : taking i l k m s = heldNow { link := l, place := n, msg := m } s := by
  have hj := State.jobRuns_of_idle he
  cases i <;> simp only [Instr.command, Option.some.injEq, Prod.mk.injEq, reduceCtorEq] at hi
  all_goals obtain ⟨rfl, rfl⟩ := hi
  case eqOpen =>
    show takeEqOpen _ k _ s = eqOpenNow _ _ s
    simp only [takeEqOpen, hj, Bool.false_eq_true, if_false]
    exact withChan_asHolder ..
  case eqClose =>
    show takeEqClose _ k _ s = eqCloseNow _ _ s
    simp only [takeEqClose, hj, Bool.false_eq_true, if_false]
    exact withChan_asHolder ..
  case eqSet =>
    show takeEqSet _ k _ s = eqSetNow _ _ s
    simp only [takeEqSet, hj, Bool.false_eq_true, if_false]
    exact withChan_asHolder ..
  case clearTaps =>
    show takeClearTaps _ k _ s = clearTapsNow _ _ s
    simp only [takeClearTaps, hj, Bool.and_false, Bool.false_eq_true, if_false]
    exact withChan_asHolder ..
  case poke =>
    show takePoke _ k _ s = pokeNow _ _ s
    simp only [takePoke, hj, Bool.and_false, Bool.false_eq_true, if_false]
    exact withChan_asHolder ..
  all_goals simp at hkind

/-! ### JOB_COMPLETE (R99, R107) -/

/-- The answer to the only entry of an intake. -/
theorem LinkPort.answer_only {q : LinkPort} {k : Fin 4} {m : CmdMsg}
    (hq : q.intake = [{ place := k, msg := m, state := .waiting }]) (code : Code) (body : List Word) :
    (q.answer k code body).responses = q.responses ++
      [{ kind := m.kind, chan := m.chan, tag := m.tag, code := code, body := body, entry := some k }] := by
  have hat : q.entryAt k = some { place := k, msg := m, state := .waiting } := by
    rw [LinkPort.entryAt, hq]
    simp
  rw [LinkPort.answer, hat]
  rfl

/-- The answer to an entry of an intake whose places are apart. -/
theorem LinkPort.answer_entry {q : LinkPort} {k : Fin 4} {m : CmdMsg} (hn : (q.intake.map Entry.place).Nodup)
    (hq : { place := k, msg := m, state := .waiting } ∈ q.intake) (code : Code) (body : List Word) :
    q.answer k code body = { q with
      intake := q.intake.map fun e => if e.place = k then { e with state := .answered } else e
      responses := q.responses ++
        [{ kind := m.kind, chan := m.chan, tag := m.tag, code := code, body := body, entry := some k }] } := by
  obtain ⟨x, hx⟩ : ∃ x, q.entryAt k = some x :=
    Option.isSome_iff_exists.mp (List.find?_isSome.mpr ⟨_, hq, by simp⟩)
  have hplace : x.place = k := by simpa using List.find?_some hx
  have heq : x = { place := k, msg := m, state := .waiting } :=
    Entry.eq_of_place hn (List.mem_of_find?_eq_some hx) hq hplace
  rw [LinkPort.answer, hx, heq]
  rfl

theorem State.updPort_congr {s : State} {l : Link} {f g : LinkPort → LinkPort} (h : f (s.port l) = g (s.port l)) :
    s.updPort l f = s.updPort l g := congrArg (s.setPort l) h

/-- Settles O30: the result and the count, and a held command against the same command arriving at an idle part. -/
theorem jobCompleteReleasesTheEngine : Obligations.JobCompleteReleasesTheEngine := by
  refine ⟨?_, ?_⟩
  · intro j s ch result counted made he
    refine ⟨fun hdone => ?_, fun hinputs hclosed => ?_⟩
    · intro finished
      have hmade : (s.countJob j).readyJob j = made := by
        unfold State.readyJob
        rw [State.jobResult_countJob]
        unfold State.countJob State.jobResult
        cases hplace : j.place <;> cases hclosed :
            j.closed <;> simp only [made, counted, result, hplace, hclosed] <;> rfl
      have hfinish : s.finishJob j = finished := by
        have hheld : made.held = s.held := by
          rw [← hmade, (State.readyJob_same _ j).held]
          unfold State.countJob
          split <;> rfl
        unfold State.finishJob
        dsimp only
        rw [State.readyJob_countJob, hmade, hheld]
      refine ⟨(s.finishJob j).chooseJob, ?_, ?_⟩
      · show execJobComplete s = _
        rw [execJobComplete, he]
        exact if_pos hdone
      · rw [hfinish]
        rfl
    · show execJobComplete s = _
      rw [execJobComplete, he]
      exact if_neg (by rw [hclosed]; simpa using hinputs)
  · intro i l k m s t r p arrives hi hkind hn hmem hexec hr
    have hserves : arrives.Serves l 0 := by
      refine ⟨rfl, ?_, rfl, ?_⟩
      · show ((s.setPort l _).port l).state = .up
        rw [State.port_setPort]
      · show ((s.setPort l _).port l).freePlace = some 0
        rw [State.port_setPort]
        rfl
    have hport : arrives.port l = { p with state := .up, intake := [], responses := [] } := State.port_setPort ..
    have huport : (arrives.received l 0 m).port l =
        { ({ p with state := .up, intake := [], responses := [] } : LinkPort).heard with
          intake := [{ place := 0, msg := m, state := .waiting }] } := by
      rw [State.received, State.port_updPort, hport]
      rfl
    have hs : State.relined l p.relinedAs s.pin s.clear s.engine (arrives.received l 0 m) = s := by
      refine State.SameButPorts.eq_of_ports (s := s) rfl rfl fun i => ?_
      rw [State.port_relined]
      split
      · rename_i h
        rw [h, huport]
        rfl
      · rename_i h
        exact (State.port_updPort_ne (hl := h) ..).trans (State.port_setPort_ne (hl := h) ..)
    generalize harr : arrives.received l 0 m = u at huport hs
    obtain ⟨code, body, hdone⟩ := heldNow_done { link := l, place := k, msg := m } u
    obtain ⟨hintake, hresponses⟩ := heldNow_port { link := l, place := k, msg := m } u l
    have hheld := (State.relined_unseen l p s.pin s.clear s.engine).heldNow { link := l, place := k, msg := m } u
    rw [hs] at hheld
    have ht : t = (heldNow { link := l, place := k, msg := m } u).1.answer l 0 code body := by
      have hrun := exec_served hi hserves
      rw [harr, taking_idle hi hkind (by rw [← harr]; rfl) 0 k, hdone, hexec] at hrun
      exact Host.Outcome.next.inj hrun
    have hresponse := LinkPort.answer_only (hintake.trans (by rw [huport])) code body
    rw [ht, State.answer, State.port_updPort, hresponse, hresponses, huport] at hr
    obtain rfl := List.singleton_inj.mp hr
    rw [State.takeHeld_eq, hheld, ht]
    show (State.relined l p.relinedAs s.pin s.clear s.engine (heldNow { link := l, place := k, msg :=
        m } u).1).settle l k m
      (heldNow { link := l, place := k, msg := m } u).2 = _
    rw [hdone]
    generalize (heldNow { link := l, place := k, msg := m } u).1 = x at *
    show _ = State.relined l _ s.pin s.clear s.engine (x.answer l 0 code body)
    refine State.SameButPorts.eq_of_ports (s := { x with pin := s.pin, clear := s.clear, engine := s.engine })
      rfl rfl fun i => ?_
    rw [State.port_relined]
    refine (State.port_updPort_ite ..).trans ?_
    split
    · rename_i h
      rw [h, State.port_relined, if_pos rfl, State.answer, State.port_updPort,
        LinkPort.answer_entry (q := p.relinedAs (x.port l)) hn hmem]
      unfold LinkPort.answer
      split <;> rfl
    · rename_i h
      rw [State.port_relined, if_neg h]
      exact (State.port_updPort_ne (hl := h) ..).symm

end Sys2Proof.Machine

/-! SUPPORT. The words of messages: the fields of a header, what a message's words decode to, and the layout of what the
part sends. -/

namespace Sys2Proof.Machine

/-! ### Fields placed in a word (R161) -/

/-- A link number placed at bit 0. -/
theorem place_link (l : Link) : place l.val 0 8 = BitVec.ofNat 32 l.val := by fin_cases l <;> rfl

/-- The E word: E in the low half, the next rx sequence in the high half. -/
theorem eWord_eq (q next : Seq) : eWord q next = q.setWidth 32 ||| place next.toNat 16 16 := by
  rw [eWord, place_setWidth]

/-- The earlier sample of a pair is in the low half of its word (R162). -/
theorem packPair_eq (a b : Sample) : packPair a b = a.setWidth 32 ||| place b.toNat 16 16 := by
  have hb : place b.toNat 16 16 = b.setWidth 32 <<< 16 := by
    apply BitVec.eq_of_toNat_eq
    have hlt := b.isLt
    rw [Laws.place_toNat _ _ _ (by norm_num), BitVec.toNat_shiftLeft, BitVec.toNat_setWidth, Nat.shiftLeft_eq]
    omega
  rw [hb, packPair]
  ext i hi
  simp only [BitVec.getElem_append, BitVec.getElem_or, BitVec.getElem_setWidth, BitVec.getElem_shiftLeft]
  by_cases hlow : i < 16
  · simp [hlow]
  · simp [hlow, BitVec.getLsbD_of_ge a i (by omega), BitVec.getLsbD_eq_getElem (show i - 16 < 16 by omega)]

/-- Both halves of a packed pair. -/
theorem packPair_halves (a b : Sample) : (packPair a b).extractLsb' 0 16 = a ∧ (packPair a b).extractLsb' 16 16 =
    b := by
  have hbit (i : Nat) : (packPair a b).getLsbD i = if i < 16 then a.getLsbD i else b.getLsbD (i - 16) :=
    BitVec.getLsbD_append.trans (by simp)
  constructor <;> · ext i hi; simp [hbit, hi]

/-- Sample `i` of a packed list is in word ⌊i/2⌋, the samples of even place in the low half (R162). -/
theorem packSamples_spec (n : Nat) (xs : List Sample) (h : xs.length = 2 * n) : (packSamples xs).length = n ∧
    ∀ i < 2 * n, ((packSamples xs).getD (i / 2) 0).extractLsb' (16 * (i % 2)) 16 = xs.getD i 0 := by
  induction n generalizing xs with
  | zero => rw [List.length_eq_zero_iff.mp h]; exact ⟨rfl, fun i hi => absurd hi (by omega)⟩
  | succ n ih =>
    obtain ⟨a, b, rest, rfl⟩ : ∃ a b rest, xs = a :: b :: rest := by
      match xs, h with
      | a :: b :: rest, _ => exact ⟨a, b, rest, rfl⟩
    obtain ⟨hlen, hall⟩ := ih rest (by simp only [List.length_cons] at h; omega)
    obtain ⟨hlow, hhigh⟩ := packPair_halves a b
    refine ⟨by simp [packSamples, hlen], fun i hi => ?_⟩
    match i with
    | 0 => exact hlow
    | 1 => exact hhigh
    | i + 2 =>
      have hdiv : (i + 2) / 2 = i / 2 + 1 := by omega
      have hmod : (i + 2) % 2 = i % 2 := by omega
      rw [hdiv, hmod]
      exact hall i (by omega)

/-! ### The header (Table 46) -/

/-- The field that was placed holds the value. -/
theorem fieldAt_place (v : Nat) {lo len : Nat} (h : lo + len ≤ 32) : fieldAt (place v lo len) lo len = v % 2 ^ len := by
  rw [fieldAt, Laws.place_toNat _ _ _ h, Nat.mul_div_cancel _ (Nat.two_pow_pos lo), Nat.mod_mod]

/-- A field above the one that was placed is 0. -/
theorem fieldAt_place_above (v n : Nat) {lo len lo' : Nat} (h : lo + len ≤ 32) (habove : lo + len ≤ lo') :
    fieldAt (place v lo len) lo' n = 0 := by
  have hlt : v % 2 ^ len * 2 ^ lo < 2 ^ len * 2 ^ lo :=
    Nat.mul_lt_mul_of_pos_right (Nat.mod_lt _ (Nat.two_pow_pos len)) (Nat.two_pow_pos lo)
  have hle : 2 ^ len * 2 ^ lo ≤ 2 ^ lo' := by
    rw [← pow_add]
    exact Nat.pow_le_pow_right (by norm_num) (by omega)
  rw [fieldAt, Laws.place_toNat _ _ _ h, Nat.div_eq_of_lt (by omega), Nat.zero_mod]

/-- A field below the one that was placed is 0. -/
theorem fieldAt_place_below (v : Nat) {lo len lo' n : Nat} (h : lo + len ≤ 32) (hbelow : lo' + n ≤ lo) :
    fieldAt (place v lo len) lo' n = 0 := by
  obtain ⟨k, rfl⟩ := Nat.exists_eq_add_of_le hbelow
  have hpow : v % 2 ^ len * 2 ^ (lo' + n + k) = 2 ^ lo' * (2 ^ n * (2 ^ k * (v % 2 ^ len))) := by ring
  rw [fieldAt, Laws.place_toNat _ _ _ h, hpow, Nat.mul_div_cancel_left _ (Nat.two_pow_pos lo'), Nat.mul_mod_right]

theorem headerChan_headerWord (kind len : Nat) (ch : ChanField) (tag : Tag) :
    headerChan (headerWord kind ch len tag) = ch := by
  simp only [headerChan, headerWord, Laws.fieldAt_or]
  rw [fieldAt_place_above _ _ (by decide) (by decide), fieldAt_place _ (by decide),
    fieldAt_place_below _ (by decide) (by decide), fieldAt_place_below _ (by decide) (by decide), Nat.zero_or,
        Nat.or_zero,
    Nat.or_zero, Nat.mod_eq_of_lt ch.isLt, BitVec.ofNat_toNat, BitVec.setWidth_eq]

theorem headerTag_headerWord (kind len : Nat) (ch : ChanField) (tag : Tag) :
    headerTag (headerWord kind ch len tag) = tag := by
  simp only [headerTag, headerWord, Laws.fieldAt_or]
  rw [fieldAt_place_above _ _ (by decide) (by decide), fieldAt_place_above _ _ (by decide) (by decide),
    fieldAt_place_above _ _ (by decide) (by decide), fieldAt_place _ (by decide), Nat.zero_or, Nat.zero_or,
    Nat.zero_or, Nat.mod_eq_of_lt tag.isLt, BitVec.ofNat_toNat, BitVec.setWidth_eq]

/-- Bits 30 and 31 of a header are sent as 0 (R161). -/
theorem headerTop_headerWord (kind len : Nat) (ch : ChanField) (tag : Tag) :
    fieldAt (headerWord kind ch len tag) 30 2 = 0 := by
  simp only [headerWord, Laws.fieldAt_or]
  rw [fieldAt_place_above _ _ (by decide) (by decide), fieldAt_place_above _ _ (by decide) (by decide),
    fieldAt_place_above _ _ (by decide) (by decide), fieldAt_place_above _ _ (by decide) (by decide)]
  rfl

/-- A slice of a word is its field. -/
theorem extractLsb'_eq_fieldAt (w : Word) (lo len : Nat) :
    w.extractLsb' lo len = BitVec.ofNat len (fieldAt w lo len) := by
  apply BitVec.eq_of_toNat_eq
  rw [BitVec.extractLsb'_toNat, BitVec.toNat_ofNat, fieldAt, Nat.shiftRight_eq_div_pow, Nat.mod_mod]

/-! ### Decoding (Tables 46 to 48) -/

/-- A message decodes to what its kind, channel field, tag and payload make. -/
theorem decodeMessage_messageOf (l : Link) {kind : Nat} {ws : List Word} (hkind : kind < 64) (hlen : ws.length < 64)
    (ch : ChanField) (tag : Tag) : decodeMessage l (messageOf kind ch tag ws) = commandOf l kind ch tag ws := by
  have hlength : headerLength (headerWord kind ch ws.length tag) = ws.length := by
    rw [Laws.headerLength_headerWord, Nat.mod_eq_of_lt hlen]
  rw [messageOf, decodeMessage, if_pos hlength, Laws.headerKind_headerWord, Nat.mod_eq_of_lt hkind,
    headerChan_headerWord, headerTag_headerWord]

/-- The message is written as a kind, a channel field, a tag and a payload that make it again, the payload of a length
that the kind permits (Tables 46 and 47). -/
structure Spelt (i : Instr) (kind : Nat) (ch : ChanField) (tag : Tag) (ws : List Word) : Prop where
  words : i.words = messageOf kind ch tag ws
  kind_lt : kind < 64
  length_lt : ws.length < 64
  made : commandOf i.link kind ch tag ws = some i
  permitted : lengthPermitted kind ws.length = true

/-- There is a spelling of the message. -/
def HasSpelling (i : Instr) : Prop := ∃ kind ch tag ws, Spelt i kind ch tag ws

theorem Spelt.hasSpelling {i : Instr} {kind : Nat} {ch : ChanField} {tag : Tag} {ws : List Word}
    (hwords : i.words = messageOf kind ch tag ws) (hkind : kind < 64) (hlen : ws.length < 64)
    (hmade : commandOf i.link kind ch tag ws = some i) (hpermitted : lengthPermitted kind ws.length = true) :
    HasSpelling i := ⟨kind, ch, tag, ws, hwords, hkind, hlen, hmade, hpermitted⟩

/-- A vector of eight, element by element. -/
theorem vector_eight {α : Type} (v : Vector α 8) : v = #v[v[0], v[1], v[2], v[3], v[4], v[5], v[6], v[7]] := by
  ext i hi
  interval_cases i <;> rfl

/-- Every well-formed message has a spelling. -/
theorem hasSpelling_of_wellFormed {i : Instr} (hmsg : i.isMessage = true) (hwf : WellFormed i = true) :
    HasSpelling i := by
  cases i with
  | openChannel l ch tag p => cases p <;> exact Spelt.hasSpelling rfl (by decide) (by simp [OpenPayload.words]) rfl rfl
  | handover l ch tag p => cases p <;> exact Spelt.hasSpelling rfl (by decide) (by simp [HandoverPayload.words]) rfl rfl
  | eqOpen l ch tag p => cases p <;> exact Spelt.hasSpelling rfl (by decide) (by simp [EqOpenPayload.words]) rfl rfl
  | status l ch tag w | counters l ch tag w => cases w <;> exact Spelt.hasSpelling rfl (by decide) (by simp) rfl rfl
  | nop l ch tag ws =>
    have hlen : ws.length ≤ 63 := of_decide_eq_true hwf
    exact Spelt.hasSpelling rfl (by decide) (by omega) (if_pos hlen) (decide_eq_true hlen)
  | eqIn l ch tag ws =>
    have hlen : 2 ≤ ws.length ∧ ws.length ≤ 25 := of_decide_eq_true hwf
    exact Spelt.hasSpelling rfl (by decide) (by omega) (if_pos hlen) (decide_eq_true hlen)
  | txBlock l ch w samples =>
    refine Spelt.hasSpelling rfl (by decide) (by simp) ?_ (by simp; rfl)
    rw [vector_eight samples]
    rfl
  | closeChannel | setNear | setFar | setAdapt | clearTaps | setPlayout | setLine | setNotices | setShadow | accept
  | decline | adopt | eqClose | eqSet | peek | poke | deviceStatus | watch | linkConfig | resetDevice =>
    exact Spelt.hasSpelling rfl (by decide) (by simp) rfl rfl
  | contextClearComplete | jobStart | eqInputPush | jobComplete | malformedHeader | resync | silenceTimerExpiry
  | handoverExpiry | frameSync | syncWindowClose | frameArrival | transmitStart | messageCompletion | deviceClearComplete
  | powerOn | resetPinAssert | resetPinRelease | powerOnClearComplete | handoverTimerTick | resyncPairSent =>
    exact (Bool.false_ne_true hmsg).elim

/-- Decoding the words of a well-formed message gives the message. -/
theorem decodeMessage_of_wellFormed {i : Instr} (hmsg : i.isMessage = true) (hwf : WellFormed i = true) :
    decodeMessage i.link i.words = some i := by
  obtain ⟨kind, ch, tag, ws, h⟩ := hasSpelling_of_wellFormed hmsg hwf
  rw [h.words, decodeMessage_messageOf _ h.kind_lt h.length_lt, h.made]

/-! ### What the part sends (Tables 47, 49 and 50) -/

/-- A link that is not DOWN has on its stream what an UP one has. -/
theorem LinkPort.outboundWords_not_down {p : LinkPort} (h : p.state ≠ .down) :
    p.outboundWords = { p with state := .up }.outboundWords := by
  unfold LinkPort.outboundWords
  cases hstate : p.state with
  | down => exact absurd hstate h
  | up => rfl
  | outOfStep => cases p.tx <;> rfl

/-- Settles O6: the fields of the header, and each message's layout. -/
theorem decodingUndoesEncoding : Obligations.DecodingUndoesEncoding := by
  refine ⟨fun i => decodeMessage_of_wellFormed, fun v lo len => ⟨rfl, fun b => ?_⟩, fun kind len ch tag hkind hlen =>
      ?_,
    fun kind ch tag ws => rfl, fun r => rfl, fun n => rfl, fun c q xs hxs => ?_, fun tag ch r entry => ?_, fun d => rfl,
    ?_, ⟨rfl, rfl, rfl, rfl, rfl⟩, fun p m w => ?_⟩
  · cases b <;> rfl
  · intro h
    have hk : headerKind h = kind % 64 := Laws.headerKind_headerWord ..
    have hl : headerLength h = len % 64 := Laws.headerLength_headerWord ..
    have htop : fieldAt h 30 2 = 0 := headerTop_headerWord ..
    rw [headerKind, fieldAt, pow_zero, Nat.div_one, Nat.mod_eq_of_lt hkind] at hk
    rw [headerLength, fieldAt, Nat.mod_eq_of_lt hlen] at hl
    refine ⟨hk, ?_, hl, ?_, ?_⟩
    · rw [extractLsb'_eq_fieldAt]
      exact headerChan_headerWord ..
    · rw [extractLsb'_eq_fieldAt]
      exact headerTag_headerWord ..
    · rw [extractLsb'_eq_fieldAt, htop]
      rfl
  · obtain ⟨hlen, hall⟩ := packSamples_spec 8 xs hxs
    exact ⟨packSamples xs, by rw [OutMsg.words, place_setWidth], hlen, hall⟩
  · have hout : EqOutput.words = fun o => [o.z.1.setWidth 32 ||| place o.z.2.toNat 16 16,
        place o.reIndex 0 8 ||| place o.imIndex 8 8] := funext fun o => by rw [EqOutput.words, packPair_eq]
    rw [OutMsg.words, EqResult.words, hout]
  · intro near far q next d w h t l why g kind ch tag n set link e reason
    have he : eWord q next = e := eWord_eq q next
    have hlink (x : Option Link) : linkByte x = link x := by cases x <;> rfl
    have hhalf (x : BitVec 16) : place x.toNat 0 16 = x.setWidth 32 := place_setWidth x
    have htag : place tag.toNat 0 12 = tag.setWidth 32 := place_setWidth tag
    simp only [NoticeBody.words, hlink, he, place_link, hhalf, htag]
    exact ⟨rfl, rfl, rfl, rfl, rfl, rfl, rfl, rfl, rfl, rfl, rfl, rfl, rfl, rfl, rfl, rfl, rfl, rfl, rfl⟩
  · refine ⟨fun h => ?_, fun h htx => ?_, fun h htx => ?_, fun h htx => ?_, rfl, by simp [wordBits], fun i hi => ?_⟩
    · rw [LinkPort.outboundWords, h]
    · rw [LinkPort.outboundWords_not_down h, LinkPort.outboundWords, htx] <;> rfl
    · rw [LinkPort.outboundWords_not_down h, LinkPort.outboundWords, htx]
    · rw [LinkPort.outboundWords_not_down h, LinkPort.outboundWords, htx]
    · simp [wordBits, hi]

end Sys2Proof.Machine

/-! SUPPORT. The framing of an inbound stream: what a run of words and a run of bits delivers, and what a bit does to its
port. -/

namespace Sys2Proof.Machine

/-! ### Runs of words (R129) -/

theorem Framing.words_append (l : Link) (f : Framing) (xs ys : List Word) : Framing.words l f (xs ++ ys) =
    ((Framing.words l (Framing.words l f xs).1 ys).1,
        (Framing.words l f xs).2 ++ (Framing.words l (Framing.words l f xs).1 ys).2) := by
  induction xs generalizing f with
  | nil => rfl
  | cons x xs ih =>
    rw [List.cons_append, Framing.words, ih, ← List.append_assoc]
    rfl

/-- A run of words that delivers nothing and leaves the stream where it stands. -/
theorem Framing.words_replicate {l : Link} {f : Framing} {w : Word} (h : f.word l w = (f, [])) (n : Nat) :
    Framing.words l f (List.replicate n w) = (f, []) := by
  induction n with
  | zero => rfl
  | succ n ih => rw [List.replicate_succ, Framing.words, h, ih, List.append_nil]

/-- The last words of a payload complete their message. -/
theorem Framing.words_payload (l : Link) (h : Word) (got ws : List Word) (hne : ws ≠ []) :
    Framing.words l (.payload h ws.length got) ws = (.header, arrived l h (got ++ ws)) := by
  induction ws generalizing got with
  | nil => exact absurd rfl hne
  | cons w ws ih =>
    cases ws with
    | nil => simp [Framing.words, Framing.word]
    | cons v vs =>
      have hmore : ¬ (w :: v :: vs).length ≤ 1 := by simp
      rw [Framing.words, Framing.word, if_neg hmore]
      have hrest := ih (got ++ [w]) (by simp)
      rw [List.append_assoc] at hrest
      exact congrArg (fun r : Framing × List Instr => (r.1, [] ++ r.2)) hrest

/-- A word whose kind and length Table 47 permits begins its message. -/
theorem headerPosition_of_headerOk (l : Link) {w : Word} (h : headerOk w = true) :
    headerPosition l w = if headerLength w = 0 then
        (.header, arrived l w []) else (.payload w (headerLength w) [], []) := by
  have hzero : w ≠ 0 := fun h0 => by rw [h0] at h; exact absurd h (by decide)
  have hones : w ≠ 0xFFFFFFFF#32 := fun h1 => by rw [h1] at h; exact absurd h (by decide)
  rw [headerPosition, if_neg hzero, if_neg hones, headerWordIn, if_pos h]

/-- A whole message delivers what it makes. -/
theorem Framing.words_message (l : Link) {h : Word} {ws : List Word} (hok : headerOk h = true)
    (hlen : headerLength h = ws.length) : Framing.words l .header (h :: ws) = (.header, arrived l h ws) := by
  rw [Framing.words, Framing.word, headerPosition_of_headerOk l hok, hlen]
  cases ws with
  | nil => simp [Framing.words]
  | cons w ws =>
    have hne : ¬ (w :: ws).length = 0 := by simp
    rw [if_neg hne]
    exact congrArg (fun r : Framing × List Instr => (r.1, [] ++ r.2)) (Framing.words_payload l h [] (w :: ws) (by simp))

/-- The words of a well-formed message deliver it. -/
theorem Framing.words_wellFormed {i : Instr} (hmsg : i.isMessage = true) (hwf : WellFormed i = true) :
    Framing.words i.link .header i.words = (.header, [i]) := by
  obtain ⟨kind, ch, tag, ws, h⟩ := hasSpelling_of_wellFormed hmsg hwf
  have hkind := Nat.mod_eq_of_lt h.kind_lt
  have hlen := Nat.mod_eq_of_lt h.length_lt
  have hok : headerOk (headerWord kind ch ws.length tag) = true := by
    rw [headerOk, Laws.headerKind_headerWord, Laws.headerLength_headerWord, hkind, hlen, h.permitted]
  have hlength : headerLength (headerWord kind ch ws.length tag) = ws.length := by
    rw [Laws.headerLength_headerWord, hlen]
  rw [h.words, messageOf, Framing.words_message _ hok hlength, arrived, Laws.headerKind_headerWord, hkind,
    headerChan_headerWord, headerTag_headerWord, h.made]
  rfl

/-- Idle words at a header position deliver nothing. -/
theorem Framing.words_idle (l : Link) (n : Nat) : Framing.words l .header (List.replicate n 0) = (.header, []) :=
  Framing.words_replicate rfl n

/-- Messages with idle words between them are delivered in order. -/
theorem Framing.words_sent (l : Link) (sent : List (Instr × Nat))
    (h : ∀ p ∈ sent, p.1.isMessage = true ∧ WellFormed p.1 = true ∧ p.1.link = l) :
    Framing.words l .header (sent.flatMap fun p => p.1.words ++ List.replicate p.2 0) =
        (.header, sent.map Prod.fst) := by
  induction sent with
  | nil => rfl
  | cons p rest ih =>
    obtain ⟨hmsg, hwf, hlink⟩ := h p (List.mem_cons_self ..)
    have hp : Framing.words l .header p.1.words = (.header, [p.1]) :=
      hlink ▸ Framing.words_wellFormed hmsg hwf
    rw [List.flatMap_cons, Framing.words_append, Framing.words_append, hp, Framing.words_idle,
      ih fun q hq => h q (List.mem_cons_of_mem _ hq)]
    rfl

/-! ### Runs of bits (R128) -/

theorem Framing.bits_append (l : Link) (f : Framing) (part xs ys : List Bool) : Framing.bits l f part (xs ++ ys) =
    let r := Framing.bits l f part xs
    let t := Framing.bits l r.1 r.2.1 ys
    (t.1, t.2.1, r.2.2 ++ t.2.2) := by
  induction xs generalizing f part with
  | nil => rfl
  | cons x xs ih =>
    rw [List.cons_append, Framing.bits, ih]
    dsimp only
    rw [← List.append_assoc]
    rfl

/-- A bit of an aligned stream. -/
theorem Framing.bit_aligned (l : Link) {f : Framing} (h : f.aligned = true) (part : List Bool) (b : Bool) :
    f.bit l part b =
    if 31 ≤ part.length then
      ((f.word l (wordOfBits (part ++ [b]))).1, [], (f.word l (wordOfBits (part ++ [b]))).2)
    else (f, part ++ [b], []) := by
  cases f with
  | unaligned n => cases h
  | header | waiting | extended | payload => rfl

/-- The bits that end a word of an aligned stream. -/
theorem Framing.bits_word (l : Link) {f : Framing} (h : f.aligned = true) (part bits : List Bool) (hne : bits ≠ [])
    (hlen : part.length + bits.length = 32) : Framing.bits l f part bits =
      ((f.word l (wordOfBits (part ++ bits))).1, [], (f.word l (wordOfBits (part ++ bits))).2) := by
  induction bits generalizing part with
  | nil => exact absurd rfl hne
  | cons b bits ih =>
    rw [List.length_cons] at hlen
    rw [Framing.bits, Framing.bit_aligned l h]
    by_cases hlast : 31 ≤ part.length
    · obtain rfl := List.length_eq_zero_iff.mp (show bits.length = 0 by omega)
      rw [if_pos hlast, Framing.bits, List.append_nil]
    · rw [if_neg hlast]
      have hrest := ih (part ++ [b]) (List.ne_nil_of_length_pos (by omega)) (by simp; omega)
      rw [hrest, List.append_assoc]
      rfl

/-- The bits of whole words make the words on an aligned stream. -/
theorem Framing.bits_words (l : Link) {f : Framing} (h : f.aligned = true) (ws : List Word) :
    Framing.bits l f [] (ws.flatMap wordBits) = ((Framing.words l f ws).1, [], (Framing.words l f ws).2) := by
  induction ws generalizing f with
  | nil => rfl
  | cons w ws ih =>
    have hlen : (wordBits w).length = 32 := by simp [wordBits]
    have hword := Framing.bits_word l h [] (wordBits w) (List.ne_nil_of_length_pos (by omega)) (by simpa using hlen)
    rw [List.nil_append, wordOfBits_wordBits] at hword
    rw [List.flatMap_cons, Framing.bits_append, hword]
    dsimp only
    rw [ih (Framing.word_aligned l h w)]
    rfl

/-! ### A bit that arrives at a port (R131, R132) -/

/-- A bit that completes something leaves the stream with word alignment. -/
theorem Framing.bit_aligned_of_completes (l : Link) (f : Framing) (part : List Bool) (b : Bool)
    (h : (f.bit l part b).2.2 ≠ []) : (f.bit l part b).1.aligned = true := by
  cases hf : f.aligned with
  | true =>
    rw [Framing.bit_aligned l hf] at h ⊢
    split
    · exact Framing.word_aligned l hf _
    · exact hf
  | false =>
    cases f with
    | unaligned n =>
      simp only [Framing.bit] at h ⊢
      split_ifs at h ⊢
      · rfl
      · exact absurd rfl h
      · exact absurd rfl h
    | header | waiting | extended | payload => cases hf

/-- A bit that completes nothing leaves the word alignment as it is. -/
theorem Framing.bit_aligned_of_quiet (l : Link) (f : Framing) (part : List Bool) (b : Bool)
    (h : (f.bit l part b).2.2 = []) : (f.bit l part b).1.aligned = f.aligned := by
  cases hf : f.aligned with
  | true =>
    rw [Framing.bit_aligned l hf]
    split
    · exact Framing.word_aligned l hf _
    · exact hf
  | false =>
    cases f with
    | unaligned n =>
      simp only [Framing.bit] at h ⊢
      split_ifs at h ⊢ <;> rfl
    | header | waiting | extended | payload => cases hf

theorem State.updPort_eq_self {s : State} {l : Link} {f : LinkPort → LinkPort} (h : f (s.port l) = s.port l) :
    s.updPort l f = s := by rw [State.updPort, h, State.setPort_port]

/-- While the pin is asserted no bit arrives. -/
theorem State.receiveBit_held {s : State} (h : s.pin = true) (l : Link) (b : Bool) : s.receiveBit l b = s := if_pos h

/-- What a bit completes is taken, and then the port stands where the bit leaves its stream. -/
theorem State.receiveBit_eq {s : State} (h : s.pin = false) (l : Link) (b : Bool) : s.receiveBit l b =
    (((s.port l).framing.bit l (s.port l).part b).2.2.foldl State.take s).updPort l
      (·.framedAt ((s.port l).framing.bit l (s.port l).part b).1 ((s.port l).framing.bit l (s.port l).part b).2.1) := by
  rw [State.receiveBit, h]
  rfl

theorem LinkPort.framedAt_of_fits {p : LinkPort} {f : Framing} (h : f.aligned = true ↔ p.state = .up) (part :
    List Bool) :
    p.framedAt f part = { p with framing := f, part := part } := by
  refine if_pos (Bool.eq_iff_iff.mpr ?_)
  rw [h, beq_iff_eq]

/-- A link that is not UP takes no word alignment. -/
theorem LinkPort.framedAt_of_left {p : LinkPort} {f : Framing} (hf : f.aligned = true) (h : p.state ≠ .up)
    (part : List Bool) : p.framedAt f part = p := by
  refine if_neg fun heq => h ?_
  rw [hf] at heq
  exact beq_iff_eq.mp heq.symm

/-- The state in which a port stands where a stream stands, if the port fits it. -/
theorem State.updPort_framedAt {t : State} {l : Link} {f : Framing} (h : f.aligned = true ↔ (t.port l).state = .up)
    (part : List Bool) : t.updPort l (·.framedAt f part) = t.updPort l fun q => { q with framing := f, part := part } :=
  State.updPort_congr (LinkPort.framedAt_of_fits h part)

/-- The port of an UP link stands where an aligned stream stands. -/
theorem State.updPort_stands {t : State} {l : Link} {f : Framing} (hf : f.aligned = true) (part : List Bool)
    (h : (t.port l).state = .up) :
    t.updPort l (·.framedAt f part) = t.updPort l fun q => { q with framing := f, part := part } :=
  State.updPort_framedAt (iff_of_true hf h) part

/-- The port of a link that has left UP stays as it is. -/
theorem State.updPort_left {t : State} {l : Link} {f : Framing} (hf : f.aligned = true) (h : (t.port l).state ≠ .up)
    (part : List Bool) : t.updPort l (·.framedAt f part) = t :=
  State.updPort_eq_self (LinkPort.framedAt_of_left hf h part)

/-- Settles O7: messages, headers and RESYNC pairs by words, words by bits, and the port by what its bit completes. -/
theorem framingDeliversTheMessagesSent : Obligations.FramingDeliversTheMessagesSent := by
  refine ⟨Framing.words_sent, fun l w n => ⟨fun hzero hones hbad => ?_, ?_, rfl, fun hones => ?_, fun hn => ?_, rfl⟩,
    fun l f ws hf => Framing.bits_words l hf ws, fun l b s => ?_⟩
  · show headerPosition l w = _
    rw [headerPosition, if_neg hzero, if_neg (show w ≠ 0xFFFFFFFF#32 from hones), headerWordIn, hbad]
    rfl
  · have hpair : Framing.words l .header [0xFFFFFFFF, 0xFFFFFFFF] = (.extended, [.resync l]) := rfl
    have hmore : Framing.words l .extended (List.replicate n 0xFFFFFFFF) = (.extended, []) :=
        Framing.words_replicate rfl n
    exact (Framing.words_append l .header [0xFFFFFFFF, 0xFFFFFFFF] (List.replicate n 0xFFFFFFFF)).trans (by
      rw [hpair, hmore]
      rfl)
  · have hfirst : Framing.word l .header 0xFFFFFFFF = (.waiting, []) := rfl
    have hsecond : Framing.word l .waiting w =
        ((headerPosition l w).1, .malformedHeader l :: (headerPosition l w).2) := if_neg hones
    simp only [Framing.words, hfirst, hsecond, List.append_nil, List.nil_append]
    rfl
  · show (if 63 ≤ n then _ else _) = _
    by_cases h : n = 63
    · rw [if_pos h, if_pos h.ge]
    · rw [if_neg h, if_neg (by omega)]
  · intro p r stands
    have hdone : r.2.2 ≠ [] → r.1.aligned = true := Framing.bit_aligned_of_completes l p.framing p.part b
    have hquiet : r.2.2 = [] → r.1.aligned = p.framing.aligned := Framing.bit_aligned_of_quiet l p.framing p.part b
    have hbit (hpin : s.pin = false) :
        s.receiveBit l b = (r.2.2.foldl State.take s).updPort l (·.framedAt r.1 r.2.1) := State.receiveBit_eq hpin l b
    refine ⟨fun hpin => State.receiveBit_held hpin l b, fun hpin hr hfits => ?_, fun i t hpin hr hi => ?_,
      fun i j t u hpin hr hi hj => ?_⟩
    · rw [← hquiet hr] at hfits
      rw [hbit hpin, hr]
      exact State.updPort_framedAt hfits r.2.1
    · have halign := hdone (by rw [hr]; exact List.cons_ne_nil _ _)
      have hrun : r.2.2.foldl State.take s = t := by rw [hr]; exact State.take_next hi
      rw [hbit hpin, hrun]
      exact ⟨State.updPort_stands halign r.2.1, fun hleft _ => State.updPort_left halign hleft r.2.1⟩
    · have halign := hdone (by rw [hr]; exact List.cons_ne_nil _ _)
      have hrun : r.2.2.foldl State.take s = u := by
        rw [hr, List.foldl_cons, State.take_next hi]
        exact State.take_next hj
      rw [hbit hpin, hrun]
      exact ⟨State.updPort_stands halign r.2.1, fun hleft => State.updPort_left halign hleft r.2.1⟩

end Sys2Proof.Machine
